-- ==== Sys2Proof/Word.lean ====
section
/-! DEFINITION. The value types of 00_scope.md R8: bytes, 32-bit words and 64-bit lengths. -/

namespace Sys2Proof

/-- `u8` (R8). -/
abbrev Byte := BitVec 8

/-- `u32` (R8); `+` on it is `+32`, addition modulo 2^32 (R65). -/
abbrev Word := BitVec 32

/-- `u64` (R8): a message length in bytes. -/
abbrev Length := BitVec 64

end Sys2Proof
end

