-- ==== Sys2Proof/Syntax.lean ====
section
/-! DEFINITION. The operations of the sequencer, its positions, the 38 instructions of
spec/opcode_table.json (12 uops and 26 host transactions), and the two encoded forms. -/

namespace Sys2Proof

/-- The operation of a sequencer position (10_state.md R22), in the order of 30_encoding.md R47. -/
inductive Op where
  | idle | check | initH | loadW | expandW | initWork
  | roundF | roundG | roundH | roundI | accum | serialize
  deriving DecidableEq, Repr, Inhabited

/-- The sequencer position `(op, t)`, the program counter of this hardware (R22); `t` is a 7-bit
index. Not every value is a legal position: see `Machine.Seq.legal`. -/
structure Seq where
  op : Op
  t : BitVec 7
  deriving DecidableEq, Repr, Inhabited

/-- One constructor per row of spec/opcode_table.json. `t` is the uop's index operand T, `v` and `b`
the data of a write, `i` the index into MSG, `off` the offset below 0x0100_0000 (R46 to R51). -/
inductive Instr where
  -- Format U: micro-operations
  | idle
  | check
  | initH
  | loadW (t : BitVec 7)
  | expandW (t : BitVec 7)
  | initWork
  | roundF (t : BitVec 7)
  | roundG (t : BitVec 7)
  | roundH (t : BitVec 7)
  | roundI (t : BitVec 7)
  | accum
  | serialize
  -- Format B: host transactions
  | rdCtrl
  | wrCtrl (v : Word)
  | rdStatus
  | wrStatus (v : Word)
  | rdLenLo
  | wrLenLo (v : Word)
  | rdLenHi
  | wrLenHi (v : Word)
  | rdDigest0
  | rdDigest1
  | rdDigest2
  | rdDigest3
  | rdDigest4
  | wrDigest0 (v : Word)
  | wrDigest1 (v : Word)
  | wrDigest2 (v : Word)
  | wrDigest3 (v : Word)
  | wrDigest4 (v : Word)
  | rdMsg8 (i : BitVec 24)
  | wrMsg8 (i : BitVec 24) (b : Byte)
  | rdMsg32 (i : BitVec 24)
  | wrMsg32 (i : BitVec 24) (v : Word)
  | rdRsvd8 (off : BitVec 24)
  | wrRsvd8 (off : BitVec 24) (b : Byte)
  | rdRsvd32 (off : BitVec 24)
  | wrRsvd32 (off : BitVec 24) (v : Word)
  deriving DecidableEq, Repr

/-- A host transaction as it is put on the bus (R50): the descriptor and the data of a write. The
data stands in 32 bits; an 8-bit write uses bits 7:0 and a read none of them (log entry 12). -/
structure Txn where
  desc : BitVec 32
  data : Word
  deriving DecidableEq, Repr

/-- An encoded instruction: a Format U word or a Format B transaction (R46, R50, R53). -/
inductive Code where
  | uop (w : BitVec 16)
  | host (x : Txn)
  deriving DecidableEq, Repr

end Sys2Proof
end

