-- ==== Sys2Proof/WellFormed.lean ====
section
/-! DEFINITION. Which terms of `Instr` are instructions: the legal T of 30_encoding.md R47 and R49,
the alignment and offset ranges of R50 to R52 and 20_memory.md R40. -/

namespace Sys2Proof

/-- The operands are legal for the instruction: T in the range of its OP (R47), a 32-bit access
aligned (R40), a reserved offset that names no register and is no byte of the register page (R51). -/
def Instr.wf : Instr → Bool
  | .loadW t => decide (t.toNat ≤ 15)
  | .expandW t => decide (16 ≤ t.toNat ∧ t.toNat ≤ 79)
  | .roundF t => decide (t.toNat ≤ 19)
  | .roundG t => decide (20 ≤ t.toNat ∧ t.toNat ≤ 39)
  | .roundH t => decide (40 ≤ t.toNat ∧ t.toNat ≤ 59)
  | .roundI t => decide (60 ≤ t.toNat ∧ t.toNat ≤ 79)
  | .rdMsg32 i | .wrMsg32 i _ => decide (i.toNat % 4 = 0)
  | .rdRsvd8 off | .wrRsvd8 off _ => decide (0x1000 ≤ off.toNat)
  | .rdRsvd32 off | .wrRsvd32 off _ => decide (off.toNat % 4 = 0 ∧ 0x24 ≤ off.toNat)
  | .idle | .check | .initH | .initWork | .accum | .serialize
  | .rdCtrl | .wrCtrl _ | .rdStatus | .wrStatus _
  | .rdLenLo | .wrLenLo _ | .rdLenHi | .wrLenHi _
  | .rdDigest0 | .rdDigest1 | .rdDigest2 | .rdDigest3 | .rdDigest4
  | .wrDigest0 _ | .wrDigest1 _ | .wrDigest2 _ | .wrDigest3 _ | .wrDigest4 _
  | .rdMsg8 _ | .wrMsg8 _ _ => true

end Sys2Proof
end

