-- ==== Sys2Proof/Decode.lean ====
section
/-! DEFINITION. The decoders of Format U (30_encoding.md R46 to R49) and Format B (R50 to R52), total
on every word, and after them the encoder. An invalid word or an UNSUPPORTED descriptor decodes to
`none`; who asks names it in its refusal (`Machine.runUop`, `Machine.runTxn`). -/

namespace Sys2Proof

/-- The fields of a uop word (R46): OP[15:12], Z[11:7] and T[6:0]. -/
def uopOp (u : BitVec 16) : BitVec 4 := u.extractLsb' 12 4
def uopZ (u : BitVec 16) : BitVec 5 := u.extractLsb' 7 5
def uopT (u : BitVec 16) : BitVec 7 := u.extractLsb' 0 7

/-- The instruction if the condition on its operands holds. -/
def validIf (ok : Prop) [Decidable ok] (i : Instr) : Option Instr := if ok then some i else none

/-- The decoder of Format U, total on all 2^16 words (R49): valid exactly when Z = 0, OP ≤ 0xB and T
lies in the legal range of its OP (the table of R47). -/
def decodeUop (u : BitVec 16) : Option Instr :=
  let t := uopT u
  if uopZ u ≠ 0 then none
  else match (uopOp u).toNat with
    | 0x0 => validIf (t.toNat = 0) .idle
    | 0x1 => validIf (t.toNat = 0) .check
    | 0x2 => validIf (t.toNat = 0) .initH
    | 0x3 => validIf (t.toNat ≤ 15) (.loadW t)
    | 0x4 => validIf (16 ≤ t.toNat ∧ t.toNat ≤ 79) (.expandW t)
    | 0x5 => validIf (t.toNat = 0) .initWork
    | 0x6 => validIf (t.toNat ≤ 19) (.roundF t)
    | 0x7 => validIf (20 ≤ t.toNat ∧ t.toNat ≤ 39) (.roundG t)
    | 0x8 => validIf (40 ≤ t.toNat ∧ t.toNat ≤ 59) (.roundH t)
    | 0x9 => validIf (60 ≤ t.toNat ∧ t.toNat ≤ 79) (.roundI t)
    | 0xA => validIf (t.toNat = 0) .accum
    | 0xB => validIf (t.toNat = 0) .serialize
    | _ => none

/-- The fields of a host descriptor (R50): WR[31], SZ[30:29], Z[28:25], OFF[24:0], and the index into
the message window, OFF[23:0]. -/
def descWr (d : BitVec 32) : Bool := d.getLsbD 31
def descSz (d : BitVec 32) : BitVec 2 := d.extractLsb' 29 2
def descZ (d : BitVec 32) : BitVec 4 := d.extractLsb' 25 4
def descOff (d : BitVec 32) : BitVec 25 := d.extractLsb' 0 25
def descIndex (d : BitVec 32) : BitVec 24 := d.extractLsb' 0 24

/-- d[24], bit 24 of OFF: the offset lies in the message window (R51). -/
def inMsgWindow (off : BitVec 25) : Bool := off.getLsbD 24

/-- The read or the write of a pair, by the descriptor's WR bit (R50). -/
def byWr (d : BitVec 32) (rd wr : Instr) : Option Instr := some (if descWr d then wr else rd)

/-- A 32-bit access of the register page (R51): a named register, else reserved space. -/
def decodeReg32 (d : BitVec 32) (v : Word) : Option Instr :=
  match (descOff d).toNat with
  | 0x000 => byWr d .rdCtrl (.wrCtrl v)
  | 0x004 => byWr d .rdStatus (.wrStatus v)
  | 0x008 => byWr d .rdLenLo (.wrLenLo v)
  | 0x00C => byWr d .rdLenHi (.wrLenHi v)
  | 0x010 => byWr d .rdDigest0 (.wrDigest0 v)
  | 0x014 => byWr d .rdDigest1 (.wrDigest1 v)
  | 0x018 => byWr d .rdDigest2 (.wrDigest2 v)
  | 0x01C => byWr d .rdDigest3 (.wrDigest3 v)
  | 0x020 => byWr d .rdDigest4 (.wrDigest4 v)
  | _ => byWr d (.rdRsvd32 (descIndex d)) (.wrRsvd32 (descIndex d) v)

/-- The decode procedure of R51, total on all 2^32 descriptors; the first matching line wins, and
`none` is UNSUPPORTED. -/
def decodeHost (x : Txn) : Option Instr :=
  let d := x.desc
  let v := x.data
  let b : Byte := v.setWidth 8
  let i := descIndex d
  let sz := descSz d
  if descZ d ≠ 0 ∨ sz = 0b01 ∨ sz = 0b11 then none
  else if sz = 0b10 ∧ (descOff d).toNat % 4 ≠ 0 then none
  else if sz = 0b00 ∧ (descOff d).toNat < 0x1000 then none
  else if inMsgWindow (descOff d) then
    if sz = 0b00 then byWr d (.rdMsg8 i) (.wrMsg8 i b) else byWr d (.rdMsg32 i) (.wrMsg32 i v)
  else if sz = 0b10 then decodeReg32 d v
  else byWr d (.rdRsvd8 i) (.wrRsvd8 i b)

/-- The decoder over both formats (R53: each has a fixed length and no mode changes decoding). -/
def decode : Code → Option Instr
  | .uop u => decodeUop u
  | .host x => decodeHost x

/-- The OP value of an operation (R47). -/
def Op.number : Op → BitVec 4
  | .idle => 0x0 | .check => 0x1 | .initH => 0x2 | .loadW => 0x3 | .expandW => 0x4
  | .initWork => 0x5 | .roundF => 0x6 | .roundG => 0x7 | .roundH => 0x8 | .roundI => 0x9
  | .accum => 0xA | .serialize => 0xB

/-- The operation an OP value names; OP 0xC to 0xF are reserved (R47). -/
def Op.ofNumber (n : BitVec 4) : Option Op :=
  match n.toNat with
  | 0x0 => some .idle | 0x1 => some .check | 0x2 => some .initH | 0x3 => some .loadW
  | 0x4 => some .expandW | 0x5 => some .initWork | 0x6 => some .roundF | 0x7 => some .roundG
  | 0x8 => some .roundH | 0x9 => some .roundI | 0xA => some .accum | 0xB => some .serialize
  | _ => none

/-- The uop word `OP << 12 | T`, with Z = 0 (R46, R47). -/
def uopWord (op : Op) (t : BitVec 7) : BitVec 16 := op.number ++ (0 : BitVec 5) ++ t

/-- The uop word that a position names (R22, R47). -/
def Seq.word (p : Seq) : BitVec 16 := uopWord p.op p.t

/-- The position whose uop word is `u`. For a word that no position names (Z ≠ 0 or a reserved OP)
it is an illegal position, so that the machine refuses it as invalid too (R49, log entry 7). -/
def Seq.ofWord (u : BitVec 16) : Seq :=
  match Op.ofNumber (uopOp u) with
  | some op => if uopZ u = 0 then ⟨op, uopT u⟩ else ⟨.serialize, 127⟩
  | none => ⟨.serialize, 127⟩

/-- A host descriptor from its fields (R50). -/
def descriptor (wr : Bool) (sz : BitVec 2) (off : BitVec 25) : BitVec 32 :=
  (BitVec.ofBool wr ++ sz ++ (0 : BitVec 4) ++ off).cast (by decide)

/-- The four kinds of descriptors (R50), each with the data of a write, 0 for a read. -/
def txnRd8 (off : BitVec 25) : Txn := ⟨descriptor false 0b00 off, 0⟩
def txnRd32 (off : BitVec 25) : Txn := ⟨descriptor false 0b10 off, 0⟩
def txnWr8 (off : BitVec 25) (b : Byte) : Txn := ⟨descriptor true 0b00 off, b.setWidth 32⟩
def txnWr32 (off : BitVec 25) (v : Word) : Txn := ⟨descriptor true 0b10 off, v⟩

/-- The offset of index `i` of the message window, 0x0100_0000 + i (20_memory.md R37). -/
def msgOff (i : BitVec 24) : BitVec 25 := (1 : BitVec 1) ++ i

/-- An offset below the message window. -/
def lowOff (off : BitVec 24) : BitVec 25 := (0 : BitVec 1) ++ off

/-- The encoder, from the tables of R47 and R50 and the offsets of 20_memory.md R37. -/
def encode : Instr → Code
  | .idle => .uop (uopWord .idle 0)
  | .check => .uop (uopWord .check 0)
  | .initH => .uop (uopWord .initH 0)
  | .loadW t => .uop (uopWord .loadW t)
  | .expandW t => .uop (uopWord .expandW t)
  | .initWork => .uop (uopWord .initWork 0)
  | .roundF t => .uop (uopWord .roundF t)
  | .roundG t => .uop (uopWord .roundG t)
  | .roundH t => .uop (uopWord .roundH t)
  | .roundI t => .uop (uopWord .roundI t)
  | .accum => .uop (uopWord .accum 0)
  | .serialize => .uop (uopWord .serialize 0)
  | .rdCtrl => .host (txnRd32 0x000)
  | .wrCtrl v => .host (txnWr32 0x000 v)
  | .rdStatus => .host (txnRd32 0x004)
  | .wrStatus v => .host (txnWr32 0x004 v)
  | .rdLenLo => .host (txnRd32 0x008)
  | .wrLenLo v => .host (txnWr32 0x008 v)
  | .rdLenHi => .host (txnRd32 0x00C)
  | .wrLenHi v => .host (txnWr32 0x00C v)
  | .rdDigest0 => .host (txnRd32 0x010)
  | .rdDigest1 => .host (txnRd32 0x014)
  | .rdDigest2 => .host (txnRd32 0x018)
  | .rdDigest3 => .host (txnRd32 0x01C)
  | .rdDigest4 => .host (txnRd32 0x020)
  | .wrDigest0 v => .host (txnWr32 0x010 v)
  | .wrDigest1 v => .host (txnWr32 0x014 v)
  | .wrDigest2 v => .host (txnWr32 0x018 v)
  | .wrDigest3 v => .host (txnWr32 0x01C v)
  | .wrDigest4 v => .host (txnWr32 0x020 v)
  | .rdMsg8 i => .host (txnRd8 (msgOff i))
  | .wrMsg8 i b => .host (txnWr8 (msgOff i) b)
  | .rdMsg32 i => .host (txnRd32 (msgOff i))
  | .wrMsg32 i v => .host (txnWr32 (msgOff i) v)
  | .rdRsvd8 off => .host (txnRd8 (lowOff off))
  | .wrRsvd8 off b => .host (txnWr8 (lowOff off) b)
  | .rdRsvd32 off => .host (txnRd32 (lowOff off))
  | .wrRsvd32 off v => .host (txnWr32 (lowOff off) v)

/-- The transaction that an instruction word stands for, its bits numbered from the least significant
bit of the descriptor: the descriptor is bits 31:0, the data of a write bits 63:32 (log entry 12). -/
def txnOfNat (w : Nat) : Txn := ⟨BitVec.ofNat 32 w, BitVec.ofNat 32 (w / 2 ^ 32)⟩

/-- The instruction the decoder reads from a word numbered as the opcode table numbers it: 16 bits are
Format U, 32 bits (or 64, with the data of a write) are Format B. -/
def decodeTableWord (nbits w : Nat) : Option Instr :=
  if nbits = 16 then decodeUop (BitVec.ofNat 16 w)
  else if nbits = 32 ∨ nbits = 64 then decodeHost (txnOfNat w)
  else none

end Sys2Proof
end

