-- ==== Sys2Proof/Config.lean ====
section
/-! DEFINITION. What an implementation fixes (the OPEN parameters of 00_scope.md R7), and the free
values: constants without a body, of which nothing can be proved. -/

namespace Sys2Proof

/-- The OPEN parameters (R7), taken as an argument: they stand in `Machine.State`, no step changes
them, and a statement about all states holds for all of them (log entry 1). -/
structure Params where
  /-- `REG_BASE`, the host address of the window; no effect on behaviour (R7). -/
  regBase : Nat
  /-- `MSG_BUF_BYTES / 64`: the constraint "a multiple of 64 with 0 ≤ MSG_BUF_BYTES ≤ 2^24" of R7
  holds by the type. -/
  msgBufBlocks : Fin (2 ^ 18 + 1)
  deriving DecidableEq, Repr

/-- `MSG_BUF_BYTES`, the capacity of the message buffer in bytes (R7). -/
def Params.msgBufBytes (p : Params) : Nat := 64 * p.msgBufBlocks.val

/-- The host address of an offset of the window (20_memory.md R33). -/
def Params.hostAddress (p : Params) (off : BitVec 25) : Nat := p.regBase + off.toNat

namespace Config

/-- FREE VALUE (20_memory.md R42, R32, decision D17): what a byte of MSG that the host has not
written since the last reset holds, by the number of resets so far and the index (log entry 3). -/
opaque msgDraw : Nat → Nat → Byte

/-- FREE VALUE: the word LOAD_W forms outside the padded message (`k ≥ NB`), where 40_padder.md R59
states no value, by the number of free values taken before (log entry 8). -/
opaque freeWord : Nat → Word

/-- FREE VALUE: the position and the `k` that ACCUM leaves when `k + 1 > NB`, where 43_sequencer.md
R81 has no row, by the number of free values taken before (log entry 9). -/
opaque freeNext : Nat → Seq × Nat

end Config

end Sys2Proof
end

