-- ==== Sys2Proof/Machine/State.lean ====
section
/-! DEFINITION. The state of the machine (10_state.md), its reset value (R32), and the reasons a step
can stop. Plain data only. -/

namespace Sys2Proof.Machine

/-- CTRL.MODE and MODE_LAT (10_state.md R21, R23): 0 = RAW, 1 = PREPADDED. -/
inductive Mode where
  | raw
  | prepadded
  deriving DecidableEq, Repr, Inhabited

/-- Five 32-bit words: the state register file `H[0..4]` (R16), and DIGEST0–4 (R26). -/
structure Hash where
  h0 : Word
  h1 : Word
  h2 : Word
  h3 : Word
  h4 : Word
  deriving DecidableEq, Repr

/-- All five words 0. -/
def Hash.zero : Hash := ⟨0, 0, 0, 0, 0⟩

/-- The working registers `A`–`E` (R17), a second bank of five words. -/
structure Work where
  a : Word
  b : Word
  c : Word
  d : Word
  e : Word
  deriving DecidableEq, Repr

/-- Which internal registers have been written since reset (R31). `h` stands for `H[0..4]` and `work`
for `A`–`E`, whose words are always written together; `w` has one mark per word of W. -/
structure Written where
  h : Bool
  work : Bool
  w : Vector Bool 80
  lLat : Bool
  modeLat : Bool
  nb : Bool
  k : Bool
  deriving DecidableEq, Repr

/-- Every mark "unwritten" (R31, R32). -/
def Written.none : Written := ⟨false, false, Vector.replicate 80 false, false, false, false, false⟩

/-- What the outside world does to the block: a bus transaction of the HOST (R15), or the reset input
asserted (70_reset_and_hazards.md R118). -/
inductive Input where
  | txn (x : Txn)
  | reset
  deriving DecidableEq, Repr

/-- Who moves in a step (R15). The outside world's inputs, the reset input among them, are `host`. -/
inductive Agent where
  | engine
  | host
  deriving DecidableEq, Repr

/-- The value a host read returns, of the access width (30_encoding.md R50). -/
inductive BusValue where
  | byte (b : Byte)
  | word (v : Word)
  deriving DecidableEq, Repr

/-- The message buffer MSG (20_memory.md R34): the bytes the host has written since reset, as (index,
byte) pairs with strictly rising indexes. An index that is not listed has not been written, and reads
as its draw (R42, log entry 3). -/
abbrev Memory := List Host.Cell

/-- The reasons the machine stops with a fault. -/
inductive Fault where
  /-- The engine's read port was asked for `MSG[i]` with `i ≥ MSG_BUF_BYTES`, a byte that does not exist
  (20_memory.md R34). Raised by `memRead` for LOAD_W and RD_MSG32. Safe: the model stops where the spec
  says nothing, and no run reaches it (R59, R108; log entry 10). -/
  | msgIndexOutside (i : Nat)
  deriving DecidableEq, Repr

/-- The reasons a step has no meaning. -/
inductive Refusal where
  /-- An instruction without a meaning in `exec`. No arm raises it now. Safe. -/
  | notModelled (mnemonic : String)
  /-- The uop word is invalid, or the position is illegal and so has no next position (30_encoding.md
  R49, 43_sequencer.md R81). Raised by `runUop` and by the meanings of uops with an index operand. Safe:
  the spec says the machine refuses the word. -/
  | invalidUop (u : BitVec 16)
  /-- The host descriptor is UNSUPPORTED (44_host_interface.md R102). Raised by `runTxn`, and by the
  meanings of transactions whose operands are ill-formed. Safe: the spec says the model refuses it. -/
  | unsupported (desc : BitVec 32)
  deriving DecidableEq, Repr

/-- The state. The fields down to `unwrittenRead` are the spec's (10_state.md, 20_memory.md); `inputs`,
`schedule`, `returned`, `epoch` and `draws` are the model's own (log entries 3 to 6 and 8). -/
structure State where
  /-- The OPEN parameters REG_BASE and MSG_BUF_BYTES (00_scope.md R7). -/
  params : Params
  /-- CTRL.MODE (R23); CTRL.START stores nothing. -/
  ctrlMode : Mode
  /-- STATUS.DONE, ERR and ERRCODE (R24); STATUS.BUSY has no storage. -/
  done : Bool
  err : Bool
  errCode : BitVec 4
  /-- LEN_LO and LEN_HI (R25). -/
  lenLo : Word
  lenHi : Word
  /-- DIGEST0–4 (R26). -/
  digest : Hash
  /-- The sequencer position, the program counter (R22). -/
  seq : Seq
  /-- The state register file H[0..4] (R16). -/
  h : Hash
  /-- The working registers A–E (R17). -/
  work : Work
  /-- The schedule buffer W[0..79] (R18). -/
  w : Vector Word 80
  /-- L_LAT, MODE_LAT, NB and k (R21). -/
  lLat : Length
  modeLat : Mode
  nb : Nat
  k : Nat
  /-- MSG (R29, R34). -/
  msg : Memory
  /-- The "unwritten" marks of the internal registers (R31). -/
  written : Written
  /-- The outcome `UnwrittenRead`, which belongs to the model only (R31, 60_exceptions.md R109): the engine has
  run a uop that read an internal register which nothing had written since reset. Once true it stays so. -/
  unwrittenRead : Bool
  /-- What the outside world still does, oldest first. -/
  inputs : List Input
  /-- Who moves in the coming steps (92_eei_decisions.md, OPEN parameter "schedule"). -/
  schedule : List Agent
  /-- The values host reads have returned, newest first. -/
  returned : List BusValue
  /-- How often the reset input has been asserted. -/
  epoch : Nat
  /-- How many free values have been taken. -/
  draws : Nat
  deriving DecidableEq, Repr

/-- The machine right after reset (10_state.md R32, 70_reset_and_hazards.md R118). The values of `h`,
`work`, `w`, `lLat`, `modeLat`, `nb` and `k`, which the spec leaves unspecified, are DESIGN CHOICES
(log entry 2), as are those of `params` (log entry 1) and of the model's own fields. -/
def State.reset : State where
  params := ⟨0, 1⟩
  ctrlMode := .raw
  done := false
  err := false
  errCode := 0
  lenLo := 0
  lenHi := 0
  digest := Hash.zero
  seq := ⟨.idle, 0⟩
  h := Hash.zero
  work := ⟨0, 0, 0, 0, 0⟩
  w := Vector.replicate 80 0
  lLat := 0
  modeLat := .raw
  nb := 0
  k := 0
  msg := []
  written := Written.none
  unwrittenRead := false
  inputs := []
  schedule := []
  returned := []
  epoch := 0
  draws := 0

end Sys2Proof.Machine
end

