-- ==== Sys2Proof/Machine/Alu.lean ====
section
/-! DEFINITION. The 32-bit ALU, the round-function mux and constant injection (42_alu_rounds.md R64 to
R69), and the constant ROMs (10_state.md R19, R20). -/

namespace Sys2Proof.Machine

/-- The rotate amounts of the datapath. No other amount is ever formed (R64). -/
inductive RotAmount where
  | five
  | thirty
  deriving DecidableEq, Repr

/-- The amount as a number. -/
def rotBits : RotAmount → Nat
  | .five => 5
  | .thirty => 30

/-- ROTL(v, n) = ((v << n) | (v >> (32 − n)))[31:0] (R64). -/
def rotl (v : Word) (n : RotAmount) : Word := (v <<< rotBits n) ||| (v >>> (32 - rotBits n))

/-- ADD32, addition modulo 2^32, with no carry-out and no flag (R65). -/
def add32 (x y : Word) : Word := x + y

/-- Mux input F, the source's IF (R68). -/
def muxF (b c d : Word) : Word := (b &&& c) ||| (~~~b &&& d)

/-- Mux input G, the source's first XOR (R68). -/
def muxG (b c d : Word) : Word := b ^^^ c ^^^ d

/-- Mux input H, the source's Majority (R68). -/
def muxH (b c d : Word) : Word := (b &&& c) ||| (b &&& d) ||| (c &&& d)

/-- Mux input I, the source's second XOR (R68). -/
def muxI (b c d : Word) : Word := b ^^^ c ^^^ d

/-- The quartiles of the 80 rounds, which are the inputs of the mux (R68). -/
inductive Quartile where
  | f | g | h | i
  deriving DecidableEq, Repr

/-- The quartile of round t: `t div 20` (R48, R68). -/
def quartileOf (t : Nat) : Quartile :=
  if t < 20 then .f else if t < 40 then .g else if t < 60 then .h else .i

/-- The round-function mux (R68). -/
def roundFn : Quartile → Word → Word → Word → Word
  | .f => muxF
  | .g => muxG
  | .h => muxH
  | .i => muxI

/-- The round-constant ROM K[0..3] by quartile (10_state.md R20); constant injection (R69). -/
def kRom : Quartile → Word
  | .f => 0x5A827999
  | .g => 0x6ED9EBA1
  | .h => 0x8F1BBCDC
  | .i => 0xCA62C1D6

/-- KSEL(t) = K[t div 20] (R69). -/
def ksel (t : Nat) : Word := kRom (quartileOf t)

/-- The initial-value ROM IV[0..4] (10_state.md R19). -/
def iv : Hash := ⟨0x67452301, 0xEFCDAB89, 0x98BADCFE, 0x10325476, 0xC3D2E1F0⟩

/-- One round on the working registers with schedule word `wt` (R71 to R74); every right-hand side
reads the old values (00_scope.md R9). -/
def roundStep (q : Quartile) (wt : Word) (r : Work) : Work where
  a := add32 (add32 (add32 (add32 (rotl r.a .five) (roundFn q r.b r.c r.d)) r.e) (kRom q)) wt
  b := r.a
  c := rotl r.b .thirty
  d := r.c
  e := r.d

/-- `A <- H[0]; … E <- H[4]` (R70). -/
def workOfHash (h : Hash) : Work := ⟨h.h0, h.h1, h.h2, h.h3, h.h4⟩

/-- The feed-forward addition `H[i] <- H[i] +32 A…E`, each sum on its own (R75). -/
def feedForward (h : Hash) (r : Work) : Hash :=
  ⟨add32 h.h0 r.a, add32 h.h1 r.b, add32 h.h2 r.c, add32 h.h3 r.d, add32 h.h4 r.e⟩

end Sys2Proof.Machine
end

