-- ==== Sys2Proof/Machine/Operands.lean ====
section
/-! DEFINITION. Operand forms: byte order (BE32, BYTE), the length operand, the legal positions of the
sequencer and `next(seq)`. -/

namespace Sys2Proof.Machine

/-- BE32(b0, b1, b2, b3) = b0 ‖ b1 ‖ b2 ‖ b3, b0 the most significant byte (00_scope.md R10,
20_memory.md R38). -/
def be32 (b0 b1 b2 b3 : Byte) : Word := b0 ++ b1 ++ b2 ++ b3

/-- BYTE(v, j) = v[31−8j : 24−8j], byte j of v from the most significant end (R10). -/
def byteOf (v : Word) (j : Nat) : Byte := v.extractLsb' (24 - 8 * j) 8

/-- L = LEN_HI ‖ LEN_LO (10_state.md R25). -/
def State.len (s : State) : Length := s.lenHi ++ s.lenLo

/-- The mode that a bit selects: 0 = RAW, 1 = PREPADDED (R23). -/
def Mode.ofBit (b : Bool) : Mode := if b then .prepadded else .raw

/-- The bit that a mode is read as (R23). -/
def Mode.toBit : Mode → Bool
  | .raw => false
  | .prepadded => true

/-- The smallest and the largest legal index of an operation (10_state.md R22). -/
def opFirst : Op → Nat
  | .expandW => 16
  | .roundG => 20
  | .roundH => 40
  | .roundI => 60
  | .idle | .check | .initH | .loadW | .initWork | .roundF | .accum | .serialize => 0

def opLast : Op → Nat
  | .loadW => 15
  | .expandW => 79
  | .roundF => 19
  | .roundG => 39
  | .roundH => 59
  | .roundI => 79
  | .idle | .check | .initH | .initWork | .accum | .serialize => 0

/-- The legal positions (R22). -/
def Seq.legal (p : Seq) : Bool := decide (opFirst p.op ≤ p.t.toNat ∧ p.t.toNat ≤ opLast p.op)

/-- The operation after the last index of an operation (43_sequencer.md R81). For CHECK it is the
next one when the check passes, for ACCUM the one when no block is left; IDLE has no next. -/
def opAfter : Op → Op
  | .idle => .idle
  | .check => .initH
  | .initH => .loadW
  | .loadW => .expandW
  | .expandW => .initWork
  | .initWork => .roundF
  | .roundF => .roundG
  | .roundG => .roundH
  | .roundH => .roundI
  | .roundI => .accum
  | .accum => .serialize
  | .serialize => .idle

/-- next(seq) for a legal position (R81): the next index of the same operation, or the first index of
the operation after it. -/
def nextSeq (p : Seq) : Seq :=
  if p.t.toNat < opLast p.op then ⟨p.op, p.t + 1⟩
  else ⟨opAfter p.op, BitVec.ofNat 7 (opFirst (opAfter p.op))⟩

end Sys2Proof.Machine
end

