-- ==== Sys2Proof/Machine/Flags.lean ====
section
/-! DEFINITION. The flags: STATUS.BUSY, DONE, ERR and ERRCODE, the only ones of this hardware
(10_state.md R24, R28), how they are set and cleared, and the words CTRL and STATUS read as. -/

namespace Sys2Proof.Machine

/-- STATUS.BUSY reads as seq.op ≠ IDLE (R24). -/
def State.busy (s : State) : Bool := decide (s.seq.op ≠ .idle)

/-- The errors CHECK can raise (60_exceptions.md R104). -/
inductive ErrorKind where
  | precondition
  | lengthOverflow
  | capacity
  deriving DecidableEq, Repr

/-- The ERRCODE of an error (R104). -/
def errorCode : ErrorKind → BitVec 4
  | .precondition => 1
  | .lengthOverflow => 2
  | .capacity => 3

/-- A one-bit field at bit n of a register's word. -/
def bitAt (b : Bool) (n : Nat) : Word := (BitVec.ofBool b).setWidth 32 <<< n

/-- RD_STATUS: zext_32(ERRCODE << 4 | ERR << 2 | DONE << 1 | BUSY) (44_host_interface.md R86). -/
def statusWord (s : State) : Word :=
  (s.errCode.setWidth 32 <<< 4) ||| bitAt s.err 2 ||| bitAt s.done 1 ||| bitAt s.busy 0

/-- RD_CTRL: zext_32(CTRL.MODE << 1); START and the reserved bits read 0 (R84). -/
def ctrlWord (s : State) : Word := bitAt s.ctrlMode.toBit 1

/-- STATUS.ERR <- 1; STATUS.ERRCODE <- code (60_exceptions.md R105). -/
def setError (e : ErrorKind) (s : State) : State := { s with err := true, errCode := errorCode e }

/-- STATUS.DONE <- 1 (43_sequencer.md R80). -/
def setDone (s : State) : State := { s with done := true }

/-- STATUS.DONE <- 0; STATUS.ERR <- 0; STATUS.ERRCODE <- 0 (44_host_interface.md R85). -/
def clearStatus (s : State) : State := { s with done := false, err := false, errCode := 0 }

end Sys2Proof.Machine
end

