-- ==== Sys2Proof/Machine/Ops.lean ====
section
/-! DEFINITION. The named operations over MSG, the registers, the sequencer position and the host's
side, the record of unwritten reads (R31), raising an error (R105), START (R85) and the reset input (R118). -/

namespace Sys2Proof.Machine

/-- What an instruction or a step answers. -/
abbrev Result := Host.Outcome State Fault Refusal

/-! ## The message buffer -/

/-- The byte written at index i since reset, if any. -/
def Memory.get? : Memory → Nat → Option Byte
  | [], _ => none
  | c :: m, i => if c.1 = i then some c.2 else Memory.get? m i

/-- Write byte b at index i, keeping the indexes strictly rising. -/
def Memory.set : Memory → Nat → Byte → Memory
  | [], i, b => [(i, b)]
  | c :: m, i, b =>
    if i < c.1 then (i, b) :: c :: m
    else if i = c.1 then (i, b) :: m
    else c :: Memory.set m i b

/-- The canonical form: indexes strictly rising. A listed index reads as a written byte and an
unlisted one as not written, so no entry equals what an unlisted index reads as (log entry 3). -/
def Memory.wf : Memory → Bool
  | [] => true
  | [_] => true
  | c :: c' :: m => decide (c.1 < c'.1) && Memory.wf (c' :: m)

/-- What an index that the host has not written since reset reads as: its draw (20_memory.md R42). -/
def unwrittenByte (s : State) (i : Nat) : Byte := Config.msgDraw s.epoch i

/-- The byte MSG[i] holds, for i < MSG_BUF_BYTES. -/
def msgByte (s : State) (i : Nat) : Byte := (Memory.get? s.msg i).getD (unwrittenByte s i)

/-- MemRead(i, 1) (00_scope.md R10): MSG[i]. A byte at or above MSG_BUF_BYTES does not exist. -/
def memRead (s : State) (i : Nat) : Except Fault Byte :=
  if i < s.params.msgBufBytes then .ok (msgByte s i) else .error (.msgIndexOutside i)

/-- MemWrite(i, 1, b) (R10). -/
def memWrite (i : Nat) (b : Byte) (s : State) : State := { s with msg := Memory.set s.msg i b }

/-- BE32 of the four bytes i, i+1, i+2, i+3 that `rd` reads (20_memory.md R38, R39). -/
def readBE32 (rd : Nat → Except Fault Byte) (i : Nat) : Except Fault Word :=
  match rd i, rd (i + 1), rd (i + 2), rd (i + 3) with
  | .ok b0, .ok b1, .ok b2, .ok b3 => .ok (be32 b0 b1 b2 b3)
  | .error e, _, _, _ => .error e
  | _, .error e, _, _ => .error e
  | _, _, .error e, _ => .error e
  | _, _, _, .error e => .error e

/-- MSG[i+j] <- BYTE(v, j) for j = 0..3 (R39). -/
def writeBE32 (i : Nat) (v : Word) (s : State) : State :=
  memWrite (i + 3) (byteOf v 3) (memWrite (i + 2) (byteOf v 2)
    (memWrite (i + 1) (byteOf v 1) (memWrite i (byteOf v 0) s)))

/-! ## Registers; each write also marks the register as written (10_state.md R31) -/

/-- H <- h. -/
def writeH (h : Hash) (s : State) : State :=
  { s with h := h, written := { s.written with h := true } }

/-- A–E <- r. -/
def writeWork (r : Work) (s : State) : State :=
  { s with work := r, written := { s.written with work := true } }

/-- W[t], for t < 80. -/
def readW (w : Vector Word 80) (t : Nat) : Word := w[t]?.getD 0

/-- W[t] <- v, for t < 80. -/
def writeW (t : Nat) (v : Word) (s : State) : State :=
  { s with
    w := s.w.setIfInBounds t v
    written := { s.written with w := s.written.w.setIfInBounds t true } }

/-- NB <- n. -/
def writeNB (n : Nat) (s : State) : State :=
  { s with nb := n, written := { s.written with nb := true } }

/-- k <- n. -/
def writeK (n : Nat) (s : State) : State :=
  { s with k := n, written := { s.written with k := true } }

/-- L_LAT <- l; MODE_LAT <- m. -/
def writeLatches (l : Length) (m : Mode) (s : State) : State :=
  { s with lLat := l, modeLat := m, written := { s.written with lLat := true, modeLat := true } }

/-- DIGEST0–4 <- d. -/
def writeDigest (d : Hash) (s : State) : State := { s with digest := d }

/-! ## Reads of unwritten registers -/

/-- W[t] has been written since reset. -/
def wWritten (s : State) (t : Nat) : Bool := s.written.w[t]?.getD false

/-- The instruction reads an internal register that nothing has written since reset (R31): L_LAT and MODE_LAT
by CHECK (43_sequencer.md R78); k, and NB, L_LAT and MODE_LAT through the padded stream, by LOAD_W
(41_schedule.md R61, 40_padder.md R59); its four words of W by EXPAND_W (R62); H by INIT_WORK (R70), ACCUM
(R75) and SERIALIZE (R80); A–E and W[t] by a ROUND uop (R71 to R74); A–E, k and NB by ACCUM. -/
def readsUnwritten (i : Instr) (s : State) : Bool :=
  match i with
  | .check => !(s.written.lLat && s.written.modeLat)
  | .loadW _ => !(s.written.k && s.written.nb && s.written.lLat && s.written.modeLat)
  | .expandW t =>
    !(wWritten s (t.toNat - 3) && wWritten s (t.toNat - 8) && wWritten s (t.toNat - 14)
      && wWritten s (t.toNat - 16))
  | .initWork => !s.written.h
  | .roundF t | .roundG t | .roundH t | .roundI t => !(s.written.work && wWritten s t.toNat)
  | .accum => !(s.written.h && s.written.work && s.written.k && s.written.nb)
  | .serialize => !s.written.h
  | .idle | .initH
  | .rdCtrl | .wrCtrl _ | .rdStatus | .wrStatus _
  | .rdLenLo | .wrLenLo _ | .rdLenHi | .wrLenHi _
  | .rdDigest0 | .rdDigest1 | .rdDigest2 | .rdDigest3 | .rdDigest4
  | .wrDigest0 _ | .wrDigest1 _ | .wrDigest2 _ | .wrDigest3 _ | .wrDigest4 _
  | .rdMsg8 _ | .wrMsg8 _ _ | .rdMsg32 _ | .wrMsg32 _ _
  | .rdRsvd8 _ | .wrRsvd8 _ _ | .rdRsvd32 _ | .wrRsvd32 _ _ => false

/-- Record the model fault `UnwrittenRead` if the uop i reads an unwritten register (R31, 60_exceptions.md
R109). It makes a wrong order of the sequencer visible and is no behaviour of the chip (R31), so the machine
goes on with the value the register holds (log entry 2). -/
def noteReads (i : Instr) (s : State) : State :=
  { s with unwrittenRead := s.unwrittenRead || readsUnwritten i s }

/-! ## The sequencer -/

/-- seq <- p. -/
def setSeq (p : Seq) (s : State) : State := { s with seq := p }

/-- seq <- next(seq), for the uop at position p: during a uop, seq names that uop (10_state.md R22,
43_sequencer.md R81; log entry 11). -/
def advance (p : Seq) (s : State) : State := setSeq (nextSeq p) s

/-- A uop at an illegal position is an invalid word, which the machine refuses (30_encoding.md R49). -/
def ifLegal (p : Seq) (r : Result) : Result :=
  if Seq.legal p then r else .refused (.invalidUop p.word)

/-- Take a free value: the counter moves on (log entry 8). -/
def takeDraw (s : State) : State := { s with draws := s.draws + 1 }

/-! ## Errors -/

/-- raise Error(code), the hardware's whole "trap entry" (60_exceptions.md R105). No state is saved, and
nothing but STATUS.ERR, ERRCODE and seq changes. There is no return from it (R107): the next START
clears the error. -/
def raiseError (e : ErrorKind) (s : State) : State := setSeq ⟨.idle, 0⟩ (setError e s)

/-! ## The host's side -/

/-- A host write that is ignored while BUSY (10_state.md R27): `f` takes effect only when idle. -/
def unlessBusy (f : State → State) (s : State) : State := if s.busy then s else f s

/-- The host read returns v. -/
def returnValue (v : BusValue) (s : State) : State := { s with returned := v :: s.returned }

/-- START (44_host_interface.md R85), with the MODE of the same write. -/
def startComputation (m : Mode) (s : State) : State :=
  setSeq ⟨.check, 0⟩ (writeDigest Hash.zero (clearStatus (writeLatches s.len m s)))

/-- A transaction whose operands its descriptor cannot carry is refused (R102; log entry 13). -/
def ifSupported (i : Instr) (r : Result) : Result :=
  match i.wf, encode i with
  | true, _ => r
  | false, .host x => .refused (.unsupported x.desc)
  | false, .uop u => .refused (.invalidUop u)

/-- The reset input (70_reset_and_hazards.md R118): every piece of state takes its reset value (R32), MSG
gets new draws, and nothing outside the block changes; what the run has recorded of UnwrittenRead stays. -/
def assertReset (s : State) : State :=
  { State.reset with
    params := s.params
    unwrittenRead := s.unwrittenRead
    inputs := s.inputs
    schedule := s.schedule
    returned := s.returned
    epoch := s.epoch + 1
    draws := s.draws }

/-- Who moves next: as the schedule says, and after its end the engine while BUSY, else the outside
world if it has something to do (70_reset_and_hazards.md R122, R124; log entry 4). -/
def nextAgent (s : State) : Agent :=
  match s.schedule with
  | a :: _ => a
  | [] => if s.busy then .engine else if s.inputs.isEmpty then .engine else .host

/-- The turn is taken off the schedule. -/
def takeTurn (s : State) : State := { s with schedule := s.schedule.tail }

end Sys2Proof.Machine
end

