-- ==== Sys2Proof/Machine/HostRegs.lean ====
section
/-! DEFINITION. The meanings of the host transactions on CTRL, STATUS, LEN and DIGEST
(44_host_interface.md R84 to R93). -/

namespace Sys2Proof.Machine

/-- A 32-bit read returns v and has no side effect (20_memory.md R41). -/
def readReg (v : Word) (s : State) : Result := .next (returnValue (.word v) s)

/-- A write to a read-only register or to reserved space changes nothing (R87, R93, R99, R101). -/
def ignoreWrite (s : State) : Result := .next s

/-- RD_CTRL (R84). -/
def execRdCtrl (s : State) : Result := readReg (ctrlWord s) s

/-- The effect of WR_CTRL v when idle (R85). -/
def writeCtrl (v : Word) (s : State) : State :=
  let m := Mode.ofBit (v.getLsbD 1)
  let s' := { s with ctrlMode := m }
  if v.getLsbD 0 then startComputation m s' else s'

/-- WR_CTRL v (R85). -/
def execWrCtrl (v : Word) (s : State) : Result := .next (unlessBusy (writeCtrl v) s)

/-- RD_STATUS (R86). -/
def execRdStatus (s : State) : Result := readReg (statusWord s) s

/-- WR_STATUS v (R87). -/
def execWrStatus (_v : Word) (s : State) : Result := ignoreWrite s

/-- RD_LEN_LO (R88). -/
def execRdLenLo (s : State) : Result := readReg s.lenLo s

/-- WR_LEN_LO v (R89). -/
def execWrLenLo (v : Word) (s : State) : Result := .next (unlessBusy (fun s => { s with lenLo := v }) s)

/-- RD_LEN_HI (R90). -/
def execRdLenHi (s : State) : Result := readReg s.lenHi s

/-- WR_LEN_HI v (R91). -/
def execWrLenHi (v : Word) (s : State) : Result := .next (unlessBusy (fun s => { s with lenHi := v }) s)

/-- RD_DIGEST0 to RD_DIGEST4 (R92). -/
def execRdDigest0 (s : State) : Result := readReg s.digest.h0 s
def execRdDigest1 (s : State) : Result := readReg s.digest.h1 s
def execRdDigest2 (s : State) : Result := readReg s.digest.h2 s
def execRdDigest3 (s : State) : Result := readReg s.digest.h3 s
def execRdDigest4 (s : State) : Result := readReg s.digest.h4 s

/-- WR_DIGEST0 to WR_DIGEST4 (R93). -/
def execWrDigest0 (_v : Word) (s : State) : Result := ignoreWrite s
def execWrDigest1 (_v : Word) (s : State) : Result := ignoreWrite s
def execWrDigest2 (_v : Word) (s : State) : Result := ignoreWrite s
def execWrDigest3 (_v : Word) (s : State) : Result := ignoreWrite s
def execWrDigest4 (_v : Word) (s : State) : Result := ignoreWrite s

end Sys2Proof.Machine
end

