-- ==== Sys2Proof/Machine/HostMsg.lean ====
section
/-! DEFINITION. The meanings of the host transactions on the message window and on reserved space
(44_host_interface.md R94 to R101). -/

namespace Sys2Proof.Machine

/-- RD_MSG8 i (R94); the reserved tail reads 0. -/
def execRdMsg8 (i : BitVec 24) (s : State) : Result :=
  if i.toNat < s.params.msgBufBytes then
    match memRead s i.toNat with
    | .ok b => .next (returnValue (.byte b) s)
    | .error e => .fault e
  else .next (returnValue (.byte 0) s)

/-- The effect of WR_MSG8 i, b when idle (R95). -/
def writeMsg8 (i : Nat) (b : Byte) (s : State) : State :=
  if i < s.params.msgBufBytes then memWrite i b s else s

/-- WR_MSG8 i, b (R95). -/
def execWrMsg8 (i : BitVec 24) (b : Byte) (s : State) : Result :=
  .next (unlessBusy (writeMsg8 i.toNat b) s)

/-- RD_MSG32 i (R96); the reserved tail reads 0. -/
def execRdMsg32 (i : BitVec 24) (s : State) : Result :=
  ifSupported (.rdMsg32 i) <|
    if i.toNat < s.params.msgBufBytes then
      match readBE32 (memRead s) i.toNat with
      | .ok v => .next (returnValue (.word v) s)
      | .error e => .fault e
    else .next (returnValue (.word 0) s)

/-- The effect of WR_MSG32 i, v when idle (R97). -/
def writeMsg32 (i : Nat) (v : Word) (s : State) : State :=
  if i < s.params.msgBufBytes then writeBE32 i v s else s

/-- WR_MSG32 i, v (R97). -/
def execWrMsg32 (i : BitVec 24) (v : Word) (s : State) : Result :=
  ifSupported (.wrMsg32 i v) <| .next (unlessBusy (writeMsg32 i.toNat v) s)

/-- RD_RSVD8 (R98). -/
def execRdRsvd8 (off : BitVec 24) (s : State) : Result :=
  ifSupported (.rdRsvd8 off) <| .next (returnValue (.byte 0) s)

/-- WR_RSVD8 (R99). -/
def execWrRsvd8 (off : BitVec 24) (b : Byte) (s : State) : Result :=
  ifSupported (.wrRsvd8 off b) <| ignoreWrite s

/-- RD_RSVD32 (R100). -/
def execRdRsvd32 (off : BitVec 24) (s : State) : Result :=
  ifSupported (.rdRsvd32 off) <| readReg 0 s

/-- WR_RSVD32 (R101). -/
def execWrRsvd32 (off : BitVec 24) (v : Word) (s : State) : Result :=
  ifSupported (.wrRsvd32 off v) <| ignoreWrite s

end Sys2Proof.Machine
end

