-- ==== Sys2Proof/Machine/Rounds.lean ====
section
/-! DEFINITION. The meanings of INIT_WORK, ROUND_F, ROUND_G, ROUND_H, ROUND_I and ACCUM
(42_alu_rounds.md R70 to R75). -/

namespace Sys2Proof.Machine

/-- INIT_WORK (R70): A–E <- H. -/
def execInitWork (s : State) : Result :=
  .next (advance ⟨.initWork, 0⟩ (writeWork (workOfHash s.h) s))

/-- A ROUND uop at position p, with the mux input and the constant of quartile q (R71 to R74). -/
def execRound (q : Quartile) (p : Seq) (s : State) : Result :=
  ifLegal p <| .next (advance p (writeWork (roundStep q (readW s.w p.t.toNat) s.work) s))

/-- ROUND_F t (R71). -/
def execRoundF (t : BitVec 7) (s : State) : Result := execRound .f ⟨.roundF, t⟩ s

/-- ROUND_G t (R72). -/
def execRoundG (t : BitVec 7) (s : State) : Result := execRound .g ⟨.roundG, t⟩ s

/-- ROUND_H t (R73). -/
def execRoundH (t : BitVec 7) (s : State) : Result := execRound .h ⟨.roundH, t⟩ s

/-- ROUND_I t (R74). -/
def execRoundI (t : BitVec 7) (s : State) : Result := execRound .i ⟨.roundI, t⟩ s

/-- next(seq) of ACCUM (43_sequencer.md R81): the next block, or SERIALIZE after the last one. For
k + 1 > NB, which has no row and which no run reaches, a free value (log entry 9). -/
def afterAccum (s : State) : State :=
  if s.k + 1 < s.nb then setSeq ⟨.loadW, 0⟩ (writeK (s.k + 1) s)
  else if s.k + 1 = s.nb then advance ⟨.accum, 0⟩ s
  else setSeq (Config.freeNext s.draws).1 (writeK (Config.freeNext s.draws).2 (takeDraw s))

/-- ACCUM (R75): H[i] <- H[i] +32 A…E. -/
def execAccum (s : State) : Result := .next (afterAccum (writeH (feedForward s.h s.work) s))

end Sys2Proof.Machine
end

