-- ==== Sys2Proof/Machine/Padder.lean ====
section
/-! DEFINITION. The padded stream and the block router (40_padder.md R59, R60), and the word LOAD_W
forms from them (41_schedule.md R61). -/

namespace Sys2Proof.Machine

/-- Byte j (0 to 7) of the big-endian 64-bit bit-length: (8·L)[63−8j : 56−8j] (R56, R59; log entry 16). -/
def lengthByte (l : Nat) (j : Nat) : Byte := BitVec.ofNat 8 (8 * l / 2 ^ (56 - 8 * j))

/-- P(i), the padded stream, for 0 ≤ i < 64·NB (R59). -/
def paddedByte (s : State) (i : Nat) : Except Fault Byte :=
  let n := 64 * s.nb
  match s.modeLat with
  | .prepadded => memRead s i
  | .raw =>
    if i < s.lLat.toNat then memRead s i
    else if i = s.lLat.toNat then .ok 0x80
    else if i < n - 8 then .ok 0x00
    else .ok (lengthByte s.lLat.toNat (i - (n - 8)))

/-- The word of block k at word index t: BE32(P(o), …, P(o+3)) with o = 64k + 4t (R60, R61). -/
def paddedWord (s : State) (t : Nat) : Except Fault Word :=
  readBE32 (paddedByte s) (64 * s.k + 4 * t)

end Sys2Proof.Machine
end

