-- ==== Sys2Proof/Machine/Schedule.lean ====
section
/-! DEFINITION. The meanings of LOAD_W and EXPAND_W (41_schedule.md R61, R62). -/

namespace Sys2Proof.Machine

/-- W[t−3] ^ W[t−8] ^ W[t−14] ^ W[t−16], with no rotate (R62). -/
def expandWord (w : Vector Word 80) (t : Nat) : Word :=
  readW w (t - 3) ^^^ readW w (t - 8) ^^^ readW w (t - 14) ^^^ readW w (t - 16)

/-- LOAD_W t (R61). Outside the padded message (k ≥ NB), where the spec states no value and which no run
reaches, the word is a free value (log entry 8). -/
def execLoadW (t : BitVec 7) (s : State) : Result :=
  ifLegal ⟨.loadW, t⟩ <|
    if s.k < s.nb then
      match paddedWord s t.toNat with
      | .ok v => .next (advance ⟨.loadW, t⟩ (writeW t.toNat v s))
      | .error e => .fault e
    else .next (advance ⟨.loadW, t⟩ (writeW t.toNat (Config.freeWord s.draws) (takeDraw s)))

/-- EXPAND_W t (R62). -/
def execExpandW (t : BitVec 7) (s : State) : Result :=
  ifLegal ⟨.expandW, t⟩ <|
    .next (advance ⟨.expandW, t⟩ (writeW t.toNat (expandWord s.w t.toNat) s))

end Sys2Proof.Machine
end

