-- ==== Sys2Proof/Machine/Sequencer.lean ====
section
/-! DEFINITION. The meanings of IDLE, CHECK, INIT_H and SERIALIZE (43_sequencer.md R77 to R80). -/

namespace Sys2Proof.Machine

/-- IDLE (R77): the engine has no step; nothing changes (log entry 14). -/
def execIdle (s : State) : Result := .next s

/-- The tests of CHECK in their order, which is their priority (R78, 60_exceptions.md R106), and NB when
they pass. -/
def checkLength (s : State) : Except ErrorKind Nat :=
  let l := s.lLat.toNat
  match s.modeLat with
  | .raw =>
    if 2 ^ 61 ≤ l then .error .lengthOverflow
    else if s.params.msgBufBytes < l then .error .capacity
    else .ok ((l + 72) / 64)
  | .prepadded =>
    if l % 64 ≠ 0 ∨ l = 0 then .error .precondition
    else if s.params.msgBufBytes < l then .error .capacity
    else .ok (l / 64)

/-- CHECK (R78). -/
def execCheck (s : State) : Result :=
  match checkLength s with
  | .ok n => .next (advance ⟨.check, 0⟩ (writeNB n s))
  | .error e => .next (raiseError e s)

/-- INIT_H (R79): H <- IV; k <- 0. -/
def execInitH (s : State) : Result := .next (advance ⟨.initH, 0⟩ (writeK 0 (writeH iv s)))

/-- SERIALIZE (R80): DIGEST <- H; DONE <- 1; seq <- (IDLE, 0). -/
def execSerialize (s : State) : Result :=
  .next (advance ⟨.serialize, 0⟩ (setDone (writeDigest s.h s)))

end Sys2Proof.Machine
end

