-- ==== Sys2Proof/Machine/Dispatch.lean ====
section
/-! DEFINITION. One arm per instruction. -/

namespace Sys2Proof.Machine

def exec (i : Instr) (s : State) : Host.Outcome State Fault Refusal :=
  match i with
  | .idle => Sys2Proof.Machine.execIdle s
  | .check => Sys2Proof.Machine.execCheck s
  | .initH => Sys2Proof.Machine.execInitH s
  | .loadW t => Sys2Proof.Machine.execLoadW t s
  | .expandW t => Sys2Proof.Machine.execExpandW t s
  | .initWork => Sys2Proof.Machine.execInitWork s
  | .roundF t => Sys2Proof.Machine.execRoundF t s
  | .roundG t => Sys2Proof.Machine.execRoundG t s
  | .roundH t => Sys2Proof.Machine.execRoundH t s
  | .roundI t => Sys2Proof.Machine.execRoundI t s
  | .accum => Sys2Proof.Machine.execAccum s
  | .serialize => Sys2Proof.Machine.execSerialize s
  | .rdCtrl => Sys2Proof.Machine.execRdCtrl s
  | .wrCtrl v => Sys2Proof.Machine.execWrCtrl v s
  | .rdStatus => Sys2Proof.Machine.execRdStatus s
  | .wrStatus v => Sys2Proof.Machine.execWrStatus v s
  | .rdLenLo => Sys2Proof.Machine.execRdLenLo s
  | .wrLenLo v => Sys2Proof.Machine.execWrLenLo v s
  | .rdLenHi => Sys2Proof.Machine.execRdLenHi s
  | .wrLenHi v => Sys2Proof.Machine.execWrLenHi v s
  | .rdDigest0 => Sys2Proof.Machine.execRdDigest0 s
  | .rdDigest1 => Sys2Proof.Machine.execRdDigest1 s
  | .rdDigest2 => Sys2Proof.Machine.execRdDigest2 s
  | .rdDigest3 => Sys2Proof.Machine.execRdDigest3 s
  | .rdDigest4 => Sys2Proof.Machine.execRdDigest4 s
  | .wrDigest0 v => Sys2Proof.Machine.execWrDigest0 v s
  | .wrDigest1 v => Sys2Proof.Machine.execWrDigest1 v s
  | .wrDigest2 v => Sys2Proof.Machine.execWrDigest2 v s
  | .wrDigest3 v => Sys2Proof.Machine.execWrDigest3 v s
  | .wrDigest4 v => Sys2Proof.Machine.execWrDigest4 v s
  | .rdMsg8 j => Sys2Proof.Machine.execRdMsg8 j s
  | .wrMsg8 j b => Sys2Proof.Machine.execWrMsg8 j b s
  | .rdMsg32 j => Sys2Proof.Machine.execRdMsg32 j s
  | .wrMsg32 j v => Sys2Proof.Machine.execWrMsg32 j v s
  | .rdRsvd8 off => Sys2Proof.Machine.execRdRsvd8 off s
  | .wrRsvd8 off b => Sys2Proof.Machine.execWrRsvd8 off b s
  | .rdRsvd32 off => Sys2Proof.Machine.execRdRsvd32 off s
  | .wrRsvd32 off v => Sys2Proof.Machine.execWrRsvd32 off v s

end Sys2Proof.Machine
end

