-- ==== Sys2Proof/Machine/Fetch.lean ====
section
/-! DEFINITION. What each agent's turn does: the engine runs the uop its position names, the outside
world's oldest input is a transaction or a reset. -/

namespace Sys2Proof.Machine

/-- Run a uop word, with the record of its reads (10_state.md R31); the machine refuses an invalid word
(30_encoding.md R49). -/
def runUop (u : BitVec 16) (s : State) : Result :=
  match decodeUop u with
  | some i => exec i (noteReads i s)
  | none => .refused (.invalidUop u)

/-- Run a host transaction; an UNSUPPORTED one is refused (44_host_interface.md R102). -/
def runTxn (x : Txn) (s : State) : Result :=
  match decodeHost x with
  | some i => exec i s
  | none => .refused (.unsupported x.desc)

/-- The engine's turn (10_state.md R15): the uop that seq names (R22). -/
def engineTurn (s : State) : Result := runUop s.seq.word s

/-- The outside world's turn (R15, R118): its oldest input, if it has one. -/
def hostTurn (s : State) : Result :=
  match s.inputs with
  | [] => .next s
  | .txn x :: rest => runTxn x { s with inputs := rest }
  | .reset :: rest => .next (assertReset { s with inputs := rest })

/-- The state in which the engine's next turn runs uop word u. -/
def withUop (s : State) (u : BitVec 16) : State :=
  { s with seq := Seq.ofWord u, schedule := .engine :: s.schedule }

/-- The state in which the host's next turn issues transaction x. -/
def withTxn (s : State) (x : Txn) : State :=
  { s with inputs := .txn x :: s.inputs, schedule := .host :: s.schedule }

end Sys2Proof.Machine
end

