-- ==== Sys2Proof/Machine/Step.lean ====
section
/-! DEFINITION. One step: the agent whose turn it is moves (10_state.md R15, 20_memory.md R43). -/

namespace Sys2Proof.Machine

/-- One step of the machine. The turn is taken off the schedule, and the agent moves; every host
transaction and every uop is one atomic step (R41). -/
def step (s : State) : Host.Outcome State Fault Refusal :=
  match nextAgent s with
  | .engine => engineTurn (takeTurn s)
  | .host => hostTurn (takeTurn s)

/-- `s` with the instruction of bits `w` as the very next one to run: a uop as the sequencer's position
with the engine's turn next, a host transaction as the oldest input with the host's turn next (log
entry 7). -/
def State.withFetchWord (s : State) (nbits w : Nat) : State :=
  if nbits = 16 then withUop s (BitVec.ofNat 16 w) else withTxn s (txnOfNat w)

end Sys2Proof.Machine
end

