-- ==== Sys2Proof/Machine/HostProgram.lean ====
section
/-! DEFINITION. Host programs: the lines of the assembler syntax and the pseudo-instructions
(30_encoding.md R54, R55), as lists of inputs. -/

namespace Sys2Proof.Machine

/-- The symbolic offsets (R54). -/
def offCtrl : BitVec 25 := 0x000
def offStatus : BitVec 25 := 0x004
def offLenLo : BitVec 25 := 0x008
def offLenHi : BitVec 25 := 0x00C
def offMsg : BitVec 25 := 0x1000000

/-- The offset of DIGESTn, n ≤ 4 (20_memory.md R37). -/
def offDigest (n : Nat) : BitVec 25 := BitVec.ofNat 25 (0x010 + 4 * n)

/-- The four lines of a host program (R54). -/
def wr32 (off : BitVec 25) (v : Word) : Input := .txn (txnWr32 off v)
def rd32 (off : BitVec 25) : Input := .txn (txnRd32 off)
def wr8 (off : BitVec 25) (b : Byte) : Input := .txn (txnWr8 off b)
def rd8 (off : BitVec 25) : Input := .txn (txnRd8 off)

/-- start_raw: MODE = 0, START = 1 (R55). -/
def startRaw : List Input := [wr32 offCtrl 0x1]

/-- start_prepadded: MODE = 1, START = 1 (R55). -/
def startPrepadded : List Input := [wr32 offCtrl 0x3]

/-- set_len L (R55). -/
def setLen (l : Nat) : List Input :=
  [wr32 offLenLo (BitVec.ofNat 32 (l % 2 ^ 32)), wr32 offLenHi (BitVec.ofNat 32 (l / 2 ^ 32))]

/-- load_msg b0 … bn−1 at index i of MSG, by byte writes (R55). -/
def loadMsgFrom (i : Nat) : List Byte → List Input
  | [] => []
  | b :: bs => wr8 (offMsg + BitVec.ofNat 25 i) b :: loadMsgFrom (i + 1) bs

/-- load_msg (R55). -/
def loadMsg (m : List Byte) : List Input := loadMsgFrom 0 m

/-- wait_idle that reads STATUS n times; the spec's loop reads until bit 0 is 0 (R55). -/
def pollStatus (n : Nat) : List Input := List.replicate n (rd32 offStatus)

/-- wait_idle is over when the word it read has bit 0 clear (R55). -/
def waitIsOver : BusValue → Bool
  | .word v => !v.getLsbD 0
  | .byte _ => false

/-- read_digest (R55). -/
def readDigest : List Input := (List.range 5).map (fun n => rd32 (offDigest n))

end Sys2Proof.Machine
end

