-- ==== Sys2Proof/Machine/Sha0.lean ====
section
/-! DEFINITION. The functional contracts, which say what a computation produces without the sequencer:
pad (40_padder.md R56), Sched (41_schedule.md R63), Compress (42_alu_rounds.md R76), DigestOf and SHA0
(43_sequencer.md R83). The machine does not use them; statements compare the machine with them. -/

namespace Sys2Proof.Machine

/-- The loop of pad: append 0x00 while (8·len P) mod 512 ≠ 448. At most 63 bytes are appended (R57), so 64
rounds of the loop are enough. -/
def padZeros : Nat → List Byte → List Byte
  | 0, p => p
  | n + 1, p => if 8 * p.length % 512 ≠ 448 then padZeros n (p ++ [0x00]) else p

/-- pad(M) (R56): the marker 0x80, zero bytes, and the bit-length as 64 bits big-endian. -/
def pad (m : List Byte) : List Byte :=
  padZeros 64 (m ++ [0x80]) ++ (List.range 8).map (lengthByte m.length)

/-- Block k of a padded message: its bytes 64k to 64k + 63 (R60). -/
def blockOf (p : List Byte) (k : Nat) : List Byte := (p.drop (64 * k)).take 64

/-- Byte i of a block. -/
def byteAt (b : List Byte) (i : Nat) : Byte := b.getD i 0

/-- Word t of the schedule of block b, from the words before it (R63). -/
def schedWord (b : List Byte) (w : Vector Word 80) (t : Nat) : Word :=
  if t < 16 then
    be32 (byteAt b (4 * t)) (byteAt b (4 * t + 1)) (byteAt b (4 * t + 2)) (byteAt b (4 * t + 3))
  else readW w (t - 3) ^^^ readW w (t - 8) ^^^ readW w (t - 14) ^^^ readW w (t - 16)

/-- The first n words of the schedule, the others 0. -/
def schedUpTo (b : List Byte) : Nat → Vector Word 80
  | 0 => Vector.replicate 80 0
  | n + 1 => (schedUpTo b n).setIfInBounds n (schedWord b (schedUpTo b n) n)

/-- Sched(B) (R63). -/
def sched (b : List Byte) : Vector Word 80 := schedUpTo b 80

/-- The working registers after the first n rounds (R76). -/
def roundsUpTo (w : Vector Word 80) (r : Work) : Nat → Work
  | 0 => r
  | n + 1 => roundStep (quartileOf n) (readW w n) (roundsUpTo w r n)

/-- Compress(h, w) (R76). -/
def compress (h : Hash) (w : Vector Word 80) : Hash :=
  feedForward h (roundsUpTo w (workOfHash h) 80)

/-- The hash state after the first k blocks of a padded message (R83). -/
def hashBlocks (p : List Byte) : Nat → Hash
  | 0 => iv
  | k + 1 => compress (hashBlocks p k) (sched (blockOf p k))

/-- DigestOf(P) (R83). -/
def digestOf (p : List Byte) : Hash := hashBlocks p (p.length / 64)

/-- SHA0(M) = DigestOf(pad(M)) (R83). -/
def sha0 (m : List Byte) : Hash := digestOf (pad m)

/-- The four bytes of a word, BYTE(v, 0) first (00_scope.md R10). -/
def wordBytes (v : Word) : List Byte := (List.range 4).map (byteOf v)

/-- The 20-byte digest: byte 4i+j is BYTE(DIGESTi, j) (10_state.md R26). -/
def digestBytes (d : Hash) : List Byte :=
  wordBytes d.h0 ++ wordBytes d.h1 ++ wordBytes d.h2 ++ wordBytes d.h3 ++ wordBytes d.h4

/-- The first n bytes of MSG. -/
def msgPrefix (s : State) (n : Nat) : List Byte := (List.range n).map (msgByte s)

/-- The padded message of the computation that is latched (R59, R83): pad of the message in RAW mode, the
buffer itself in PREPADDED mode. -/
def paddedMessage (s : State) : List Byte :=
  match s.modeLat with
  | .raw => pad (msgPrefix s s.lLat.toNat)
  | .prepadded => msgPrefix s s.lLat.toNat

end Sys2Proof.Machine
end

