-- ==== Sys2Proof/Safety.lean ====
section
/-! DEFINITION. What counts as a safe run: the invariant of every reachable state, with the order of writes
that keeps a run from reading an unwritten register (10_state.md R31), what a computation in progress has
computed so far, and how many engine steps it still takes. -/

namespace Sys2Proof.Safety

open Sys2Proof.Machine

/-- CHECK has passed: the operations after it (43_sequencer.md R82). -/
def pastCheck : Op → Bool
  | .idle | .check => false
  | .initH | .loadW | .expandW | .initWork | .roundF | .roundG | .roundH | .roundI
  | .accum | .serialize => true

/-- INIT_H has run: the operations after it (R82). -/
def pastInit : Op → Bool
  | .idle | .check | .initH => false
  | .loadW | .expandW | .initWork | .roundF | .roundG | .roundH | .roundI
  | .accum | .serialize => true

/-- The operations that are repeated for each block (R82). -/
def inBlock : Op → Bool
  | .idle | .check | .initH | .serialize => false
  | .loadW | .expandW | .initWork | .roundF | .roundG | .roundH | .roundI | .accum => true

/-- INIT_WORK of the block has run, and ACCUM has not. -/
def inRounds : Op → Bool
  | .idle | .check | .initH | .loadW | .expandW | .initWork | .serialize => false
  | .roundF | .roundG | .roundH | .roundI | .accum => true

/-- How many words of W the current block has written when the position is p (R82). -/
def wordsDone (p : Seq) : Nat :=
  match p.op with
  | .loadW | .expandW => p.t.toNat
  | .initWork | .roundF | .roundG | .roundH | .roundI | .accum => 80
  | .idle | .check | .initH | .serialize => 0

/-- How many rounds of the current block have run when the position is p (R82). -/
def roundsDone (p : Seq) : Nat :=
  match p.op with
  | .roundF | .roundG | .roundH | .roundI => p.t.toNat
  | .accum => 80
  | .idle | .check | .initH | .loadW | .expandW | .initWork | .serialize => 0

/-- The registers that the coming uops read have been written (R31): what keeps `readsUnwritten` false. -/
structure Ordered (s : State) : Prop where
  latches : s.busy = true → s.written.lLat = true ∧ s.written.modeLat = true
  nb : pastCheck s.seq.op = true → s.written.nb = true
  h : pastInit s.seq.op = true → s.written.h = true ∧ s.written.k = true
  w : ∀ t, t < wordsDone s.seq → wWritten s t = true
  work : inRounds s.seq.op = true → s.written.work = true

/-- The invariant of every reachable state. -/
structure Inv (s : State) : Prop where
  /-- The position is legal (R22). -/
  seqLegal : Machine.Seq.legal s.seq = true
  /-- BUSY=1 implies DONE=0, ERR=0 and ERRCODE=0 (R24). -/
  busyClear : s.busy = true → s.done = false ∧ s.err = false ∧ s.errCode = 0
  /-- DONE and ERR are never both 1 (R24). -/
  notBoth : ¬ (s.done = true ∧ s.err = true)
  /-- ERR=0 if and only if ERRCODE=0 (R24). -/
  errIff : s.err = false ↔ s.errCode = 0
  /-- ERRCODE values 4–15 are never produced (R24, R104). -/
  errCodeRange : s.errCode.toNat ≤ 3
  /-- DIGEST reads 0 unless a computation has completed since the last START or reset (R26, R92). -/
  digestClear : s.done = false → s.digest = Hash.zero
  /-- The latched values equal the registers' values while BUSY (R21). -/
  latched : s.busy = true → s.lLat = s.len ∧ s.modeLat = s.ctrlMode
  /-- CHECK has passed with this NB (R78). -/
  checked : pastCheck s.seq.op = true → checkLength s = .ok s.nb
  /-- 0 ≤ k < NB (R21). -/
  kBound : inBlock s.seq.op = true → s.k < s.nb
  /-- MSG is in canonical form, and holds only bytes that exist (20_memory.md R34). -/
  msgCanonical : Memory.wf s.msg = true
  msgInside : ∀ c ∈ s.msg, c.1 < s.params.msgBufBytes
  /-- Every register is written before it is read (R31). -/
  ordered : Ordered s
  /-- No uop has read an unwritten register (R31). -/
  noUnwrittenRead : s.unwrittenRead = false

/-- The number of blocks whose ACCUM has run: `k` inside a block, NB at SERIALIZE (R82). -/
def blocksDone (s : State) : Nat :=
  match s.seq.op with
  | .serialize => s.nb
  | .idle | .check | .initH | .loadW | .expandW | .initWork
  | .roundF | .roundG | .roundH | .roundI | .accum => s.k

/-- What a computation in progress has computed so far: H is the hash of the blocks done, the words of W
written for this block are those of its schedule, and A–E are those of the rounds done (R63, R76, R83). -/
structure Computed (s : State) : Prop where
  hash : pastInit s.seq.op = true → s.h = hashBlocks (paddedMessage s) (blocksDone s)
  words : ∀ t, t < wordsDone s.seq →
    readW s.w t = readW (sched (blockOf (paddedMessage s) s.k)) t
  rounds : inRounds s.seq.op = true →
    s.work = roundsUpTo (sched (blockOf (paddedMessage s) s.k)) (workOfHash s.h) (roundsDone s.seq)

/-- The position inside the 162 uops of a block (R82). -/
def blockIndex (p : Seq) : Nat :=
  match p.op with
  | .loadW | .expandW => p.t.toNat
  | .initWork => 80
  | .roundF | .roundG | .roundH | .roundI => 81 + p.t.toNat
  | .accum => 161
  | .idle | .check | .initH | .serialize => 0

/-- How many engine steps the computation still takes (R82, 70_reset_and_hazards.md R123): 3 + 162·NB from a
CHECK that passes, 1 from one that fails. -/
def stepsLeft (s : State) : Nat :=
  match s.seq.op with
  | .idle => 0
  | .check =>
    match checkLength s with
    | .ok n => 3 + 162 * n
    | .error _ => 1
  | .initH => 2 + 162 * s.nb
  | .loadW | .expandW | .initWork | .roundF | .roundG | .roundH | .roundI | .accum =>
    1 + 162 * (s.nb - s.k) - blockIndex s.seq
  | .serialize => 1

end Sys2Proof.Safety
end

