-- ==== Sys2Proof/Certificates/Slice0/Obligations.lean ====
section
/-! DEFINITION. The statements for the provers. Each docstring names the rule of the spec, or the log
entry, that it formalises. -/

open Sys2Proof Sys2Proof.Machine Sys2Proof.Safety

/-! ## Reset, turns and fetch -/

/-- R32: what reset leaves, for every piece of state to which the rule gives a value; the internal registers
are unwritten; every byte of MSG is its draw; the ROMs hold the values of R19 and R20, and
round t takes its constant from the round-constant ROM by quartile. -/
def Obligations.ResetLeavesTheResetValues : Prop :=
  State.reset.ctrlMode = .raw ∧ State.reset.done = false ∧ State.reset.err = false
    ∧ State.reset.errCode = 0 ∧ State.reset.busy = false
    ∧ State.reset.lenLo = 0 ∧ State.reset.lenHi = 0 ∧ State.reset.digest = ⟨0, 0, 0, 0, 0⟩
    ∧ State.reset.seq = ⟨.idle, 0⟩
    ∧ ctrlWord State.reset = 0 ∧ statusWord State.reset = 0
    ∧ State.reset.written = ⟨false, false, Vector.replicate 80 false, false, false, false, false⟩
    ∧ (∀ i, Memory.get? State.reset.msg i = none ∧ msgByte State.reset i = Config.msgDraw 0 i)
    ∧ iv = ⟨0x67452301, 0xEFCDAB89, 0x98BADCFE, 0x10325476, 0xC3D2E1F0⟩
    ∧ [kRom .f, kRom .g, kRom .h, kRom .i] = [0x5A827999, 0x6ED9EBA1, 0x8F1BBCDC, 0xCA62C1D6]
    ∧ (∀ t, t < 80 → some (ksel t) = [0x5A827999, 0x6ED9EBA1, 0x8F1BBCDC, 0xCA62C1D6][t / 20]?)

/-- R118: the reset input is one step, in whatever state it falls. It puts every piece of state in the value
of R32, MSG bytes become new draws, and nothing outside the block changes. -/
def Obligations.ResetInputIsOneStep : Prop :=
  ∀ (s : State) (rest : List Input), nextAgent s = .host → s.inputs = .reset :: rest →
    ∃ t, step s = .next t
      ∧ t.ctrlMode = .raw ∧ t.done = false ∧ t.err = false ∧ t.errCode = 0
      ∧ t.lenLo = 0 ∧ t.lenHi = 0 ∧ t.digest = Hash.zero
      ∧ t.seq = ⟨.idle, 0⟩ ∧ t.busy = false
      ∧ t.written = Written.none
      ∧ (∀ i, msgByte t i = Config.msgDraw (s.epoch + 1) i)
      ∧ t.params = s.params ∧ t.inputs = rest ∧ t.returned = s.returned

/-- R15, R22, R41: on the engine's turn the step is exactly the uop that the position names; a position that
names no valid word is refused (R49). The turn is taken off the schedule (log entry 4), and a read of an
unwritten register is recorded (R31, log entry 2); nothing else is added. -/
def Obligations.EngineTurnRunsTheNamedUop : Prop :=
  ∀ s : State, nextAgent s = .engine →
    (∀ i, decodeUop s.seq.word = some i → step s = exec i
      { s with
        schedule := s.schedule.tail
        unwrittenRead := s.unwrittenRead || readsUnwritten i s })
    ∧ (decodeUop s.seq.word = none → step s = .refused (.invalidUop s.seq.word))

/-- R15, R41, R102: on the host's turn the step is exactly the oldest transaction, taken off the inputs; one
that decodes as UNSUPPORTED is refused; with no input nothing but the turn passes (log entry 4). -/
def Obligations.HostTurnRunsTheOldestTransaction : Prop :=
  ∀ s : State, nextAgent s = .host →
    (∀ x rest i, s.inputs = .txn x :: rest → decodeHost x = some i →
      step s = exec i { s with schedule := s.schedule.tail, inputs := rest })
    ∧ (∀ x rest, s.inputs = .txn x :: rest → decodeHost x = none →
      step s = .refused (.unsupported x.desc))
    ∧ (s.inputs = [] → step s = .next { s with schedule := s.schedule.tail })

/-- R102: the descriptors with a nonzero Z field, a 16-bit or 64-bit width, a misaligned 32-bit access or an
8-bit access to the register page are refused, and no other is: every other transaction decodes and completes
with a next state, whatever the state. -/
def Obligations.UnsupportedDescriptorsAreRefused : Prop :=
  ∀ (x : Txn) (s : State),
    let sz := x.desc.extractLsb' 29 2
    let off := (x.desc.extractLsb' 0 25).toNat
    let bad := x.desc.extractLsb' 25 4 ≠ 0 ∨ sz = 0b01 ∨ sz = 0b11
      ∨ (sz = 0b10 ∧ off % 4 ≠ 0) ∨ (sz = 0b00 ∧ off < 0x1000)
    (bad → runTxn x s = .refused (.unsupported x.desc))
    ∧ (¬ bad → ∃ i t, decodeHost x = some i ∧ exec i s = .next t ∧ runTxn x s = .next t)

/-- R77: at (IDLE, 0) nothing changes, and only a host START leaves IDLE. The rule says that the engine has no
step there; that `exec` of IDLE, and a step in which nobody has anything to do, answer the unchanged state is the
model's choice, because the interface's step is total (log entry 14). -/
def Obligations.IdleEngineIsQuiescent : Prop :=
  (∀ s : State, exec .idle s = .next s)
  ∧ (∀ s : State, s.seq = ⟨.idle, 0⟩ → s.inputs = [] → s.schedule = [] → step s = .next s)
  ∧ (∀ s t : State, s.seq = ⟨.idle, 0⟩ → step s = .next t → t.busy = true →
      ∃ x rest v, nextAgent s = .host ∧ s.inputs = .txn x :: rest
        ∧ decodeHost x = some (.wrCtrl v) ∧ v.getLsbD 0 = true ∧ t.seq = ⟨.check, 0⟩)

/-- The model's choice of turns (log entry 4), from R15, R122 and R124: the schedule is obeyed; after its end
the engine moves while BUSY, else an input that waits. -/
def Obligations.ScheduleDecidesWhoMoves : Prop :=
  ∀ s : State,
    (∀ a rest, s.schedule = a :: rest → nextAgent s = a)
    ∧ (s.schedule = [] → s.busy = true → nextAgent s = .engine)
    ∧ (s.schedule = [] → s.busy = false → s.inputs ≠ [] → nextAgent s = .host)

/-! ## Encodings -/

/-- A sanity check of the decoders: every uop word and every host descriptor that 95_test_vectors.md section 2.6
lists, in its order, with data 0 for a write. -/
def Obligations.SpecWordsDecode : Prop :=
  [0x0000, 0x1000, 0x2000, 0x3000, 0x300F, 0x3010, 0x4010, 0x4017, 0x404F, 0x400F, 0x5000, 0x6000, 0x6013,
      0x6014].map (decodeTableWord 16)
    = [some .idle, some .check, some .initH, some (.loadW 0), some (.loadW 15), none, some (.expandW 16),
       some (.expandW 23), some (.expandW 79), none, some .initWork, some (.roundF 0), some (.roundF 19), none]
  ∧ [0x7014, 0x7017, 0x8028, 0x903C, 0x904F, 0x9050, 0xA000, 0xB000, 0x0001, 0x1001, 0x3080, 0xC000,
      0xFFFF].map (decodeTableWord 16)
    = [some (.roundG 20), some (.roundG 23), some (.roundH 40), some (.roundI 60), some (.roundI 79), none,
       some .accum, some .serialize, none, none, none, none, none]
  ∧ [0x40000000, 0xC0000000, 0x40000004, 0xC0000004, 0x40000008, 0xC000000C, 0x40000010, 0x40000020,
      0x40000024, 0x40000002, 0x20000000].map (decodeTableWord 32)
    = [some .rdCtrl, some (.wrCtrl 0), some .rdStatus, some (.wrStatus 0), some .rdLenLo, some (.wrLenHi 0),
       some .rdDigest0, some .rdDigest4, some (.rdRsvd32 0x24), none, none]
  ∧ [0x60000000, 0x00000004, 0x00001000, 0x80001000, 0x40001000, 0x01000000, 0x8100003F, 0x41000004,
      0xC1000003, 0x02000000].map (decodeTableWord 32)
    = [none, none, some (.rdRsvd8 0x1000), some (.wrRsvd8 0x1000 0), some (.rdRsvd32 0x1000),
       some (.rdMsg8 0), some (.wrMsg8 63 0), some (.rdMsg32 4), none, none]

/-- R46, R47, R49: the word `OP << 12 | T` is the uop of that OP with index T, for every legal T; and a word is
valid exactly when Z = 0, OP ≤ 0xB and T lies in the legal range of its OP. -/
def Obligations.ValidUopWordsAreThoseOfTheTable : Prop :=
  (∀ t : BitVec 7,
    let word : BitVec 16 → BitVec 16 := fun op => (op <<< 12) ||| t.setWidth 16
    (t.toNat = 0 → decodeUop (word 0x0) = some .idle ∧ decodeUop (word 0x1) = some .check
      ∧ decodeUop (word 0x2) = some .initH ∧ decodeUop (word 0x5) = some .initWork
      ∧ decodeUop (word 0xA) = some .accum ∧ decodeUop (word 0xB) = some .serialize)
    ∧ (t.toNat ≤ 15 → decodeUop (word 0x3) = some (.loadW t))
    ∧ (16 ≤ t.toNat → t.toNat ≤ 79 → decodeUop (word 0x4) = some (.expandW t))
    ∧ (t.toNat ≤ 19 → decodeUop (word 0x6) = some (.roundF t))
    ∧ (20 ≤ t.toNat → t.toNat ≤ 39 → decodeUop (word 0x7) = some (.roundG t))
    ∧ (40 ≤ t.toNat → t.toNat ≤ 59 → decodeUop (word 0x8) = some (.roundH t))
    ∧ (60 ≤ t.toNat → t.toNat ≤ 79 → decodeUop (word 0x9) = some (.roundI t)))
  ∧ ∀ u : BitVec 16,
    let op := (u.extractLsb' 12 4).toNat
    let t := (u.extractLsb' 0 7).toNat
    ((decodeUop u).isSome = true ↔
      u.extractLsb' 7 5 = 0 ∧ op ≤ 0xB
        ∧ (op = 0x3 → t ≤ 15) ∧ (op = 0x4 → 16 ≤ t ∧ t ≤ 79) ∧ (op = 0x6 → t ≤ 19)
        ∧ (op = 0x7 → 20 ≤ t ∧ t ≤ 39) ∧ (op = 0x8 → 40 ≤ t ∧ t ≤ 59)
        ∧ (op = 0x9 → 60 ≤ t ∧ t ≤ 79)
        ∧ (op ∈ [0x0, 0x1, 0x2, 0x5, 0xA, 0xB] → t = 0))

/-- R50, R51, with the offsets of R37: each of the four kinds of descriptor, written out as R50 writes it, is the
transaction of its offset: a named register, a byte or word of the message window, or reserved space. And a
descriptor decodes to nothing exactly when one of the three UNSUPPORTED lines of R51 matches. That the data
stands in 32 bits, of which an 8-bit write takes bits 7:0, is the model's choice (log entry 12): R50 gives such a
write a u8. -/
def Obligations.DescriptorsDecodeByTheProcedure : Prop :=
  ∀ v : Word,
    let rd32 : BitVec 32 → Option Instr := fun off => decodeHost ⟨0x40000000 ||| off, v⟩
    let wr32 : BitVec 32 → Option Instr := fun off => decodeHost ⟨0xC0000000 ||| off, v⟩
    let rd8 : BitVec 32 → Option Instr := fun off => decodeHost ⟨0x00000000 ||| off, v⟩
    let wr8 : BitVec 32 → Option Instr := fun off => decodeHost ⟨0x80000000 ||| off, v⟩
    [0x000, 0x004, 0x008, 0x00C, 0x010, 0x014, 0x018, 0x01C, 0x020].map rd32
      = [some .rdCtrl, some .rdStatus, some .rdLenLo, some .rdLenHi, some .rdDigest0, some .rdDigest1,
         some .rdDigest2, some .rdDigest3, some .rdDigest4]
    ∧ [0x000, 0x004, 0x008, 0x00C, 0x010, 0x014, 0x018, 0x01C, 0x020].map wr32
      = [some (.wrCtrl v), some (.wrStatus v), some (.wrLenLo v), some (.wrLenHi v), some (.wrDigest0 v),
         some (.wrDigest1 v), some (.wrDigest2 v), some (.wrDigest3 v), some (.wrDigest4 v)]
    ∧ (∀ d : BitVec 32, decodeHost ⟨d, v⟩ = none ↔
      d.extractLsb' 25 4 ≠ 0 ∨ d.extractLsb' 29 2 = 0b01 ∨ d.extractLsb' 29 2 = 0b11
        ∨ (d.extractLsb' 29 2 = 0b10 ∧ d.extractLsb' 0 2 ≠ 0)
        ∨ (d.extractLsb' 29 2 = 0b00 ∧ (d.extractLsb' 0 25).toNat < 0x1000))
    ∧ ∀ i : BitVec 24,
      let off := i.setWidth 32
      rd8 (0x01000000 ||| off) = some (.rdMsg8 i)
      ∧ wr8 (0x01000000 ||| off) = some (.wrMsg8 i (v.extractLsb' 0 8))
      ∧ (i.toNat % 4 = 0 → rd32 (0x01000000 ||| off) = some (.rdMsg32 i)
          ∧ wr32 (0x01000000 ||| off) = some (.wrMsg32 i v))
      ∧ (0x1000 ≤ i.toNat → rd8 off = some (.rdRsvd8 i)
          ∧ wr8 off = some (.wrRsvd8 i (v.extractLsb' 0 8)))
      ∧ (i.toNat % 4 = 0 → 0x24 ≤ i.toNat → rd32 off = some (.rdRsvd32 i)
          ∧ wr32 off = some (.wrRsvd32 i v))

/-- Decode and encode agree on every well-formed instruction, at every value of its operands. -/
def Obligations.DecodeOfEncodeIsTheInstruction : Prop :=
  ∀ i : Instr, i.wf = true → decode (encode i) = some i

/-- Every word has one meaning: an instruction the decoder reads is well-formed and its encoding is the word;
for a transaction, its descriptor is the one read. -/
def Obligations.EncodeOfDecodeIsTheWord : Prop :=
  (∀ (u : BitVec 16) (i : Instr), decodeUop u = some i → i.wf = true ∧ encode i = .uop u)
  ∧ (∀ (x : Txn) (i : Instr), decodeHost x = some i →
      i.wf = true ∧ ∃ v : Word, encode i = .host ⟨x.desc, v⟩)

/-- Log entry 13: an instruction whose operands its encoding cannot carry is refused in every state, under the
name of its encoded word. The model's choice: R49 and R102 refuse the words, and no word decodes to it. -/
def Obligations.IllFormedInstructionsAreRefused : Prop :=
  ∀ (i : Instr) (s : State), i.wf = false →
    (∀ u, encode i = .uop u → exec i s = .refused (.invalidUop u))
    ∧ (∀ x, encode i = .host x → exec i s = .refused (.unsupported x.desc))

/-! ## The datapath -/

/-- R64: ROTL by the two amounts of the datapath is the circular left shift; by 30 it is a right rotate by 2. -/
def Obligations.RotlIsCircular : Prop :=
  ∀ (v : Word) (i : Nat), i < 32 →
    (rotl v .five).getLsbD ((i + 5) % 32) = v.getLsbD i
    ∧ (rotl v .thirty).getLsbD ((i + 30) % 32) = v.getLsbD i
    ∧ (rotl v .thirty).getLsbD i = v.getLsbD ((i + 2) % 32)

/-- R68: the mux bit by bit: F chooses between c and d by b, G and I are the parity, H is the majority. -/
def Obligations.MuxActsBitwise : Prop :=
  ∀ (b c d : Word) (i : Nat), i < 32 →
    (roundFn .f b c d).getLsbD i = (if b.getLsbD i then c.getLsbD i else d.getLsbD i)
    ∧ (roundFn .g b c d).getLsbD i = (b.getLsbD i != (c.getLsbD i != d.getLsbD i))
    ∧ (roundFn .h b c d).getLsbD i
        = decide (2 ≤ (b.getLsbD i).toNat + (c.getLsbD i).toNat + (d.getLsbD i).toNat)
    ∧ roundFn .i b c d = roundFn .g b c d

/-! ## The uops: each completes with exactly these effects, and everything else is unchanged -/

/-- R78, R105, R106: CHECK, with the outcome of its tests in their order of priority. -/
def Obligations.CheckTestsTheLength : Prop :=
  ∀ s : State,
    let l := s.lLat.toNat
    let cap := 64 * s.params.msgBufBlocks.val
    let pass : Nat → State := fun n =>
      { s with nb := n, written := { s.written with nb := true }, seq := ⟨.initH, 0⟩ }
    let fail : BitVec 4 → State := fun c => { s with err := true, errCode := c, seq := ⟨.idle, 0⟩ }
    (s.modeLat = .raw → 2 ^ 61 ≤ l → exec .check s = .next (fail 2))
    ∧ (s.modeLat = .raw → l < 2 ^ 61 → cap < l → exec .check s = .next (fail 3))
    ∧ (s.modeLat = .raw → l < 2 ^ 61 → l ≤ cap → exec .check s = .next (pass ((l + 72) / 64)))
    ∧ (s.modeLat = .prepadded → (l % 64 ≠ 0 ∨ l = 0) → exec .check s = .next (fail 1))
    ∧ (s.modeLat = .prepadded → l % 64 = 0 → l ≠ 0 → cap < l → exec .check s = .next (fail 3))
    ∧ (s.modeLat = .prepadded → l % 64 = 0 → l ≠ 0 → l ≤ cap → exec .check s = .next (pass (l / 64)))

/-- R79: INIT_H. -/
def Obligations.InitHLoadsTheInitialValue : Prop :=
  ∀ s : State, exec .initH s = .next
    { s with
      h := ⟨0x67452301, 0xEFCDAB89, 0x98BADCFE, 0x10325476, 0xC3D2E1F0⟩
      k := 0
      written := { s.written with h := true, k := true }
      seq := ⟨.loadW, 0⟩ }

/-- R61: LOAD_W t forms W[t] big-endian from four bytes of the padded stream. -/
def Obligations.LoadWFormsTheBigEndianWord : Prop :=
  ∀ (s : State) (t : BitVec 7) (b0 b1 b2 b3 : Byte), t.toNat ≤ 15 → s.k < s.nb →
    paddedByte s (64 * s.k + 4 * t.toNat) = .ok b0 →
    paddedByte s (64 * s.k + 4 * t.toNat + 1) = .ok b1 →
    paddedByte s (64 * s.k + 4 * t.toNat + 2) = .ok b2 →
    paddedByte s (64 * s.k + 4 * t.toNat + 3) = .ok b3 →
    exec (.loadW t) s = .next
      { s with
        w := s.w.setIfInBounds t.toNat (b0 ++ b1 ++ b2 ++ b3)
        written := { s.written with w := s.written.w.setIfInBounds t.toNat true }
        seq := if t.toNat < 15 then ⟨.loadW, t + 1⟩ else ⟨.expandW, 16⟩ }

/-- R59, R108: after a CHECK that passes, LOAD_W completes for every block and index: its word is the word of
the padded message (R56), and no byte it reads is missing. -/
def Obligations.LoadWCompletesAfterCheck : Prop :=
  ∀ (s : State) (t : BitVec 7), t.toNat ≤ 15 → checkLength s = .ok s.nb → s.k < s.nb →
    exec (.loadW t) s = .next
      { s with
        w := s.w.setIfInBounds t.toNat
          (be32 ((paddedMessage s).getD (64 * s.k + 4 * t.toNat) 0)
            ((paddedMessage s).getD (64 * s.k + 4 * t.toNat + 1) 0)
            ((paddedMessage s).getD (64 * s.k + 4 * t.toNat + 2) 0)
            ((paddedMessage s).getD (64 * s.k + 4 * t.toNat + 3) 0))
        written := { s.written with w := s.written.w.setIfInBounds t.toNat true }
        seq := if t.toNat < 15 then ⟨.loadW, t + 1⟩ else ⟨.expandW, 16⟩ }

/-- R62: EXPAND_W t, with no rotate. -/
def Obligations.ExpandWXorsFourWords : Prop :=
  ∀ (s : State) (t : BitVec 7) (a b c d : Word), 16 ≤ t.toNat → t.toNat ≤ 79 →
    s.w[t.toNat - 3]? = some a → s.w[t.toNat - 8]? = some b →
    s.w[t.toNat - 14]? = some c → s.w[t.toNat - 16]? = some d →
    exec (.expandW t) s = .next
      { s with
        w := s.w.setIfInBounds t.toNat (a ^^^ b ^^^ c ^^^ d)
        written := { s.written with w := s.written.w.setIfInBounds t.toNat true }
        seq := if t.toNat < 79 then ⟨.expandW, t + 1⟩ else ⟨.initWork, 0⟩ }

/-- R70: INIT_WORK. -/
def Obligations.InitWorkCopiesH : Prop :=
  ∀ s : State, exec .initWork s = .next
    { s with
      work := ⟨s.h.h0, s.h.h1, s.h.h2, s.h.h3, s.h.h4⟩
      written := { s.written with work := true }
      seq := ⟨.roundF, 0⟩ }

/-- R71: ROUND_F t. -/
def Obligations.RoundFMixes : Prop :=
  ∀ (s : State) (t : BitVec 7) (w : Word), t.toNat ≤ 19 → s.w[t.toNat]? = some w →
    exec (.roundF t) s = .next
      { s with
        work := ⟨s.work.a.rotateLeft 5 + ((s.work.b &&& s.work.c) ||| (~~~s.work.b &&& s.work.d))
            + s.work.e + 0x5A827999 + w,
          s.work.a, s.work.b.rotateLeft 30, s.work.c, s.work.d⟩
        written := { s.written with work := true }
        seq := if t.toNat < 19 then ⟨.roundF, t + 1⟩ else ⟨.roundG, 20⟩ }

/-- R72: ROUND_G t. -/
def Obligations.RoundGMixes : Prop :=
  ∀ (s : State) (t : BitVec 7) (w : Word), 20 ≤ t.toNat → t.toNat ≤ 39 → s.w[t.toNat]? = some w →
    exec (.roundG t) s = .next
      { s with
        work := ⟨s.work.a.rotateLeft 5 + (s.work.b ^^^ s.work.c ^^^ s.work.d)
            + s.work.e + 0x6ED9EBA1 + w,
          s.work.a, s.work.b.rotateLeft 30, s.work.c, s.work.d⟩
        written := { s.written with work := true }
        seq := if t.toNat < 39 then ⟨.roundG, t + 1⟩ else ⟨.roundH, 40⟩ }

/-- R73: ROUND_H t. -/
def Obligations.RoundHMixes : Prop :=
  ∀ (s : State) (t : BitVec 7) (w : Word), 40 ≤ t.toNat → t.toNat ≤ 59 → s.w[t.toNat]? = some w →
    exec (.roundH t) s = .next
      { s with
        work := ⟨s.work.a.rotateLeft 5
            + ((s.work.b &&& s.work.c) ||| (s.work.b &&& s.work.d) ||| (s.work.c &&& s.work.d))
            + s.work.e + 0x8F1BBCDC + w,
          s.work.a, s.work.b.rotateLeft 30, s.work.c, s.work.d⟩
        written := { s.written with work := true }
        seq := if t.toNat < 59 then ⟨.roundH, t + 1⟩ else ⟨.roundI, 60⟩ }

/-- R74: ROUND_I t. -/
def Obligations.RoundIMixes : Prop :=
  ∀ (s : State) (t : BitVec 7) (w : Word), 60 ≤ t.toNat → t.toNat ≤ 79 → s.w[t.toNat]? = some w →
    exec (.roundI t) s = .next
      { s with
        work := ⟨s.work.a.rotateLeft 5 + (s.work.b ^^^ s.work.c ^^^ s.work.d)
            + s.work.e + 0xCA62C1D6 + w,
          s.work.a, s.work.b.rotateLeft 30, s.work.c, s.work.d⟩
        written := { s.written with work := true }
        seq := if t.toNat < 79 then ⟨.roundI, t + 1⟩ else ⟨.accum, 0⟩ }

/-- R75, R81: ACCUM, to the next block or to SERIALIZE. -/
def Obligations.AccumAddsAndMovesOn : Prop :=
  ∀ s : State,
    let h : Hash := ⟨s.h.h0 + s.work.a, s.h.h1 + s.work.b, s.h.h2 + s.work.c, s.h.h3 + s.work.d,
      s.h.h4 + s.work.e⟩
    (s.k + 1 < s.nb → exec .accum s = .next
      { s with h := h, k := s.k + 1, written := { s.written with h := true, k := true },
               seq := ⟨.loadW, 0⟩ })
    ∧ (s.k + 1 = s.nb → exec .accum s = .next
      { s with h := h, written := { s.written with h := true }, seq := ⟨.serialize, 0⟩ })

/-- R80: SERIALIZE; and byte 4i + j of the digest is BYTE(DIGESTi, j). -/
def Obligations.SerializePublishesTheDigest : Prop :=
  (∀ s : State, exec .serialize s = .next { s with digest := s.h, done := true, seq := ⟨.idle, 0⟩ })
  ∧ ∀ (d : Hash) (i j : Nat), i < 5 → j < 4 →
      (digestBytes d)[4 * i + j]?
        = [d.h0, d.h1, d.h2, d.h3, d.h4][i]?.map (fun v => v.extractLsb' (24 - 8 * j) 8)

/-- Log entries 8 and 9: outside the blocks of the computation, where the spec states no value, LOAD_W and
ACCUM still complete, with every effect that the spec gives without reference to the open value, and the
open value is a free one. The model's choice, not a rule of the spec. -/
def Obligations.OpenValuesAreFreeValues : Prop :=
  (∀ (s : State) (t : BitVec 7), t.toNat ≤ 15 → s.nb ≤ s.k →
    exec (.loadW t) s = .next
      { s with
        w := s.w.setIfInBounds t.toNat (Config.freeWord s.draws)
        written := { s.written with w := s.written.w.setIfInBounds t.toNat true }
        draws := s.draws + 1
        seq := if t.toNat < 15 then ⟨.loadW, t + 1⟩ else ⟨.expandW, 16⟩ })
  ∧ (∀ s : State, s.nb < s.k + 1 →
    exec .accum s = .next
      { s with
        h := ⟨s.h.h0 + s.work.a, s.h.h1 + s.work.b, s.h.h2 + s.work.c, s.h.h3 + s.work.d,
          s.h.h4 + s.work.e⟩
        k := (Config.freeNext s.draws).2
        written := { s.written with h := true, k := true }
        draws := s.draws + 1
        seq := (Config.freeNext s.draws).1 })

/-! ## The host transactions -/

/-- R84, R88, R90, R92: the reads of CTRL, LEN and DIGEST return these values, at any time, and change
nothing. -/
def Obligations.RegisterReadsReturnTheirValue : Prop :=
  ∀ s : State,
    let ret : Word → Host.Outcome State Fault Refusal := fun v =>
      .next { s with returned := .word v :: s.returned }
    exec .rdCtrl s = ret (match s.ctrlMode with | .raw => 0 | .prepadded => 2)
    ∧ exec .rdLenLo s = ret s.lenLo ∧ exec .rdLenHi s = ret s.lenHi
    ∧ exec .rdDigest0 s = ret s.digest.h0 ∧ exec .rdDigest1 s = ret s.digest.h1
    ∧ exec .rdDigest2 s = ret s.digest.h2 ∧ exec .rdDigest3 s = ret s.digest.h3
    ∧ exec .rdDigest4 s = ret s.digest.h4

/-- R86, R24: RD_STATUS returns BUSY in bit 0, DONE in bit 1, ERR in bit 2, ERRCODE in bits 7:4 and 0
elsewhere, and changes nothing. -/
def Obligations.StatusReadReturnsTheFlags : Prop :=
  ∀ s : State, ∃ v : Word,
    exec .rdStatus s = .next { s with returned := .word v :: s.returned }
    ∧ v.getLsbD 0 = decide (s.seq.op ≠ .idle) ∧ v.getLsbD 1 = s.done ∧ v.getLsbD 2 = s.err
    ∧ v.getLsbD 3 = false ∧ v.extractLsb' 4 4 = s.errCode ∧ v.extractLsb' 8 24 = 0

/-- R86: in every state of the invariant, the status word is one of the six values of the rule. -/
def Obligations.StatusHasSixValues : Prop :=
  ∀ s : State, Inv s → statusWord s ∈ [0x00, 0x01, 0x02, 0x14, 0x24, 0x34]

/-- R85: WR_CTRL v and START. -/
def Obligations.CtrlWriteSetsModeAndStarts : Prop :=
  ∀ (s : State) (v : Word),
    let m : Mode := if v.getLsbD 1 then .prepadded else .raw
    (s.seq.op ≠ .idle → exec (.wrCtrl v) s = .next s)
    ∧ (s.seq.op = .idle → v.getLsbD 0 = false → exec (.wrCtrl v) s = .next { s with ctrlMode := m })
    ∧ (s.seq.op = .idle → v.getLsbD 0 = true → exec (.wrCtrl v) s = .next
      { s with
        ctrlMode := m, lLat := s.lenHi ++ s.lenLo, modeLat := m
        written := { s.written with lLat := true, modeLat := true }
        done := false, err := false, errCode := 0, digest := ⟨0, 0, 0, 0, 0⟩
        seq := ⟨.check, 0⟩ })

/-- R89, R91: WR_LEN_LO v and WR_LEN_HI v, ignored while BUSY. -/
def Obligations.LengthWritesWhileIdle : Prop :=
  ∀ (s : State) (v : Word),
    (s.seq.op = .idle → exec (.wrLenLo v) s = .next { s with lenLo := v }
      ∧ exec (.wrLenHi v) s = .next { s with lenHi := v })
    ∧ (s.seq.op ≠ .idle → exec (.wrLenLo v) s = .next s ∧ exec (.wrLenHi v) s = .next s)

/-- R87, R93, R99, R101: writes to STATUS, DIGEST and reserved space change nothing. -/
def Obligations.ReadOnlyAndReservedWritesChangeNothing : Prop :=
  ∀ (s : State) (v : Word) (b : Byte) (off : BitVec 24),
    exec (.wrStatus v) s = .next s
    ∧ exec (.wrDigest0 v) s = .next s ∧ exec (.wrDigest1 v) s = .next s
    ∧ exec (.wrDigest2 v) s = .next s ∧ exec (.wrDigest3 v) s = .next s
    ∧ exec (.wrDigest4 v) s = .next s
    ∧ (0x1000 ≤ off.toNat → exec (.wrRsvd8 off b) s = .next s)
    ∧ (off.toNat % 4 = 0 → 0x24 ≤ off.toNat → exec (.wrRsvd32 off v) s = .next s)

/-- R98, R100: reads of reserved space return 0 of the access width and change nothing. -/
def Obligations.ReservedReadsReturnZero : Prop :=
  ∀ (s : State) (off : BitVec 24),
    (0x1000 ≤ off.toNat →
      exec (.rdRsvd8 off) s = .next { s with returned := .byte 0 :: s.returned })
    ∧ (off.toNat % 4 = 0 → 0x24 ≤ off.toNat →
      exec (.rdRsvd32 off) s = .next { s with returned := .word 0 :: s.returned })

/-- R94, R96: RD_MSG8 and RD_MSG32, inside the buffer and in the reserved tail, at any time. -/
def Obligations.MessageReadsReturnTheBytes : Prop :=
  ∀ (s : State) (i : BitVec 24),
    let cap := 64 * s.params.msgBufBlocks.val
    (i.toNat < cap →
      exec (.rdMsg8 i) s = .next { s with returned := .byte (msgByte s i.toNat) :: s.returned })
    ∧ (cap ≤ i.toNat → exec (.rdMsg8 i) s = .next { s with returned := .byte 0 :: s.returned })
    ∧ (i.toNat % 4 = 0 → i.toNat < cap →
      exec (.rdMsg32 i) s = .next { s with returned := .word (msgByte s i.toNat
        ++ msgByte s (i.toNat + 1) ++ msgByte s (i.toNat + 2) ++ msgByte s (i.toNat + 3))
        :: s.returned })
    ∧ (i.toNat % 4 = 0 → cap ≤ i.toNat →
      exec (.rdMsg32 i) s = .next { s with returned := .word 0 :: s.returned })

/-- R95: WR_MSG8 i, b stores one byte at index i while idle and i is in the buffer; every other byte and every
register is as before. -/
def Obligations.ByteWriteStoresOneByte : Prop :=
  ∀ (s : State) (i : BitVec 24) (b : Byte), Memory.wf s.msg = true →
    (s.seq.op = .idle → i.toNat < 64 * s.params.msgBufBlocks.val →
      ∃ m, exec (.wrMsg8 i b) s = .next { s with msg := m }
        ∧ ∀ j, msgByte { s with msg := m } j = if j = i.toNat then b else msgByte s j)
    ∧ (s.seq.op ≠ .idle ∨ 64 * s.params.msgBufBlocks.val ≤ i.toNat →
      exec (.wrMsg8 i b) s = .next s)

/-- R97: WR_MSG32 i, v stores four bytes big-endian at i while idle and i is in the buffer; every other byte
and every register is as before. -/
def Obligations.WordWriteStoresFourBytes : Prop :=
  ∀ (s : State) (i : BitVec 24) (v : Word), Memory.wf s.msg = true → i.toNat % 4 = 0 →
    (s.seq.op = .idle → i.toNat < 64 * s.params.msgBufBlocks.val →
      ∃ m, exec (.wrMsg32 i v) s = .next { s with msg := m }
        ∧ msgByte { s with msg := m } i.toNat = v.extractLsb' 24 8
        ∧ msgByte { s with msg := m } (i.toNat + 1) = v.extractLsb' 16 8
        ∧ msgByte { s with msg := m } (i.toNat + 2) = v.extractLsb' 8 8
        ∧ msgByte { s with msg := m } (i.toNat + 3) = v.extractLsb' 0 8
        ∧ ∀ j, j < i.toNat ∨ i.toNat + 4 ≤ j → msgByte { s with msg := m } j = msgByte s j)
    ∧ (s.seq.op ≠ .idle ∨ 64 * s.params.msgBufBlocks.val ≤ i.toNat →
      exec (.wrMsg32 i v) s = .next s)

/-- R39: mixed widths are consistent: after an aligned word write, the word reads back whole, and its bits
31:24 are the byte at the lowest index; after a byte write at an aligned index, the word read there has the
byte in bits 31:24. -/
def Obligations.MixedWidthAccessesAgree : Prop :=
  ∀ (s : State) (i : BitVec 24) (v : Word) (b : Byte), Memory.wf s.msg = true → s.seq.op = .idle →
    i.toNat % 4 = 0 → i.toNat < 64 * s.params.msgBufBlocks.val →
    (∃ t u, exec (.wrMsg32 i v) s = .next t ∧ exec (.rdMsg32 i) t = .next u
      ∧ u.returned = .word v :: s.returned)
    ∧ (∃ t u, exec (.wrMsg32 i v) s = .next t ∧ exec (.rdMsg8 i) t = .next u
      ∧ u.returned = .byte (v.extractLsb' 24 8) :: s.returned)
    ∧ (∃ t u v', exec (.wrMsg8 i b) s = .next t ∧ exec (.rdMsg32 i) t = .next u
      ∧ u.returned = .word v' :: s.returned ∧ v'.extractLsb' 24 8 = b)

/-- R27: while BUSY the host's writes to CTRL, LEN_LO, LEN_HI and MSG change no state. -/
def Obligations.WritesWhileBusyAreIgnored : Prop :=
  ∀ (s : State) (v : Word) (b : Byte) (i : BitVec 24), s.busy = true →
    exec (.wrCtrl v) s = .next s ∧ exec (.wrLenLo v) s = .next s ∧ exec (.wrLenHi v) s = .next s
    ∧ exec (.wrMsg8 i b) s = .next s ∧ (i.toNat % 4 = 0 → exec (.wrMsg32 i v) s = .next s)

/-! ## Frames and whole-machine rules -/

/-- R35, R16 to R18, R104: what a uop leaves unchanged when it completes. MSG, LEN, CTRL.MODE, the latches and
everything of the host's side always; each other register unless the uop is one of its writers. -/
def Obligations.UopsLeaveTheRestUnchanged : Prop :=
  ∀ (u : BitVec 16) (i : Instr) (s t : State), decodeUop u = some i → exec i s = .next t →
    (∀ a, msgByte t a = msgByte s a)
    ∧ t.lenLo = s.lenLo ∧ t.lenHi = s.lenHi ∧ t.ctrlMode = s.ctrlMode
    ∧ t.lLat = s.lLat ∧ t.modeLat = s.modeLat ∧ t.params = s.params
    ∧ t.inputs = s.inputs ∧ t.schedule = s.schedule ∧ t.returned = s.returned ∧ t.epoch = s.epoch
    ∧ (t.h ≠ s.h → i = .initH ∨ i = .accum)
    ∧ (t.work ≠ s.work → i = .initWork ∨ ∃ q, i = .roundF q ∨ i = .roundG q ∨ i = .roundH q ∨ i = .roundI q)
    ∧ (∀ n, t.w[n]? ≠ s.w[n]? → ∃ q : BitVec 7, q.toNat = n ∧ (i = .loadW q ∨ i = .expandW q))
    ∧ (t.nb ≠ s.nb → i = .check) ∧ (t.k ≠ s.k → i = .initH ∨ i = .accum)
    ∧ (t.digest ≠ s.digest ∨ t.done ≠ s.done → i = .serialize)
    ∧ (t.err ≠ s.err ∨ t.errCode ≠ s.errCode → i = .check)

/-- R30, R41, R95, R97: what a host transaction leaves unchanged when it completes. H, A–E, W, NB and k always;
every other register unless it is a write that takes effect. WR_MSG8 stores at most to its operand's index,
WR_MSG32 at most to the four indexes from its operand's on, and every other byte of MSG reads as before; every
other transaction leaves MSG as it is. -/
def Obligations.TransactionsLeaveTheRestUnchanged : Prop :=
  ∀ (x : Txn) (i : Instr) (s t : State), decodeHost x = some i → exec i s = .next t →
    t.h = s.h ∧ t.work = s.work ∧ t.w = s.w ∧ t.nb = s.nb ∧ t.k = s.k ∧ t.params = s.params
    ∧ t.inputs = s.inputs ∧ t.schedule = s.schedule ∧ t.epoch = s.epoch ∧ t.draws = s.draws
    ∧ (t.lenLo ≠ s.lenLo → ∃ v, i = .wrLenLo v) ∧ (t.lenHi ≠ s.lenHi → ∃ v, i = .wrLenHi v)
    ∧ (∀ j b, i = .wrMsg8 j b → ∀ a, a ≠ j.toNat → msgByte t a = msgByte s a)
    ∧ (∀ j v, i = .wrMsg32 j v → ∀ a, a < j.toNat ∨ j.toNat + 4 ≤ a → msgByte t a = msgByte s a)
    ∧ ((∀ j b, i ≠ .wrMsg8 j b) → (∀ j v, i ≠ .wrMsg32 j v) → t.msg = s.msg)
    ∧ (t.ctrlMode ≠ s.ctrlMode → ∃ v, i = .wrCtrl v)
    ∧ (t.seq ≠ s.seq ∨ t.lLat ≠ s.lLat ∨ t.modeLat ≠ s.modeLat ∨ t.written ≠ s.written
        ∨ t.done ≠ s.done ∨ t.err ≠ s.err ∨ t.errCode ≠ s.errCode ∨ t.digest ≠ s.digest →
        ∃ v : Word, i = .wrCtrl v ∧ v.getLsbD 0 = true)
    ∧ (t.returned ≠ s.returned → x.desc.getLsbD 31 = false
        ∧ ∃ v, t = { s with returned := v :: s.returned })

/-- R26: DIGEST changes only by SERIALIZE, a START or the reset input. -/
def Obligations.DigestChangesOnlyByThreeEvents : Prop :=
  ∀ s t : State, step s = .next t → t.digest ≠ s.digest →
    (nextAgent s = .engine ∧ s.seq = ⟨.serialize, 0⟩ ∧ t.digest = s.h ∧ t.done = true)
    ∨ (nextAgent s = .host ∧ (s.inputs.head? = some .reset
        ∨ ∃ x v, s.inputs.head? = some (.txn x) ∧ decodeHost x = some (.wrCtrl v)
            ∧ v.getLsbD 0 = true ∧ s.busy = false)
      ∧ t.digest = ⟨0, 0, 0, 0, 0⟩)

/-- R104: only the CHECK uop raises an error, and it records one of the three codes. -/
def Obligations.OnlyCheckRaisesErrors : Prop :=
  ∀ s t : State, step s = .next t → s.err = false → t.err = true →
    nextAgent s = .engine ∧ s.seq = ⟨.check, 0⟩ ∧ t.seq = ⟨.idle, 0⟩
    ∧ (t.errCode = 1 ∨ t.errCode = 2 ∨ t.errCode = 3)

/-- R34, R59: the engine reads no byte of MSG at index L_LAT or above: two states that agree below it load the
same words. -/
def Obligations.BytesBeyondTheLengthAreNotRead : Prop :=
  ∀ (s s' : State) (t : Nat), t < 16 → checkLength s = .ok s.nb → s.k < s.nb →
    s' = { s with msg := s'.msg, epoch := s'.epoch } →
    (∀ i, i < s.lLat.toNat → msgByte s' i = msgByte s i) → paddedWord s' t = paddedWord s t

/-- R21, R27: while a computation is in progress, no step of either agent but the reset input changes the
message, its length or its mode. -/
def Obligations.RunningComputationIsSealed : Prop :=
  ∀ s t : State, s.busy = true → step s = .next t →
    ¬ (nextAgent s = .host ∧ s.inputs.head? = some .reset) →
    t.msg = s.msg ∧ t.epoch = s.epoch ∧ t.lenLo = s.lenLo ∧ t.lenHi = s.lenHi
    ∧ t.ctrlMode = s.ctrlMode ∧ t.lLat = s.lLat ∧ t.modeLat = s.modeLat
    ∧ paddedMessage t = paddedMessage s

/-! ## Padding -/

/-- R57: the length of the padded message, and how many zero bytes stand in it. -/
def Obligations.PadHasTheLengthOfTheRule : Prop :=
  ∀ m : List Byte,
    pad m = m ++ [0x80] ++ List.replicate ((55 + 64 - m.length % 64) % 64) 0x00
      ++ (List.range 8).map (lengthByte m.length)
    ∧ (pad m).length = 64 * ((m.length + 72) / 64)

/-- R58: the properties of pad that the source states. -/
def Obligations.PadHasTheStatedProperties : Prop :=
  ∀ m : List Byte, m.length < 2 ^ 61 →
    (pad m).length % 64 = 0 ∧ m.length + 9 ≤ (pad m).length
    ∧ (pad m).take m.length = m ∧ (pad m)[m.length]? = some 0x80
    ∧ (∀ i, m.length < i → i < (pad m).length - 8 → (pad m)[i]? = some 0x00)
    ∧ ((pad m).drop ((pad m).length - 8)).foldl (fun n b => 256 * n + b.toNat) 0 = 8 * m.length
    ∧ (m = [] → (pad m).length = 64)

/-- R59: the padded stream is the padded message byte for byte, in both modes. -/
def Obligations.PaddedStreamIsThePaddedMessage : Prop :=
  ∀ (s : State) (i : Nat), checkLength s = .ok s.nb → i < 64 * s.nb →
    paddedByte s i = .ok ((paddedMessage s).getD i 0) ∧ (paddedMessage s).length = 64 * s.nb

/-! ## Invariants and results -/

/-- The invariant holds right after reset. -/
def Obligations.ResetSatisfiesTheInvariant : Prop := Inv State.reset ∧ Computed State.reset

/-- R22, R24, R21, R26, R31, R34: every step of either agent keeps the invariant. -/
def Obligations.EveryStepKeepsTheInvariant : Prop :=
  ∀ s t : State, Inv s → step s = .next t → Inv t

/-- R31, R109: which uop reads which internal register; a step records UnwrittenRead exactly when the engine runs
a uop that reads one which nothing has written, and never takes the record back; and no run does so: in a state of
the invariant the uop that the engine is about to run reads written registers only. That the machine goes on after
such a read is the model's choice (log entry 2). -/
def Obligations.UnwrittenReadsAreRecordedAndNoRunMakesOne : Prop :=
  (∀ (s : State) (t : BitVec 7),
    let unwritten : Nat → Prop := fun n => s.written.w[n]? = some false
    (readsUnwritten .check s = true ↔ s.written.lLat = false ∨ s.written.modeLat = false)
    ∧ (readsUnwritten (.loadW t) s = true ↔ s.written.k = false ∨ s.written.nb = false
        ∨ s.written.lLat = false ∨ s.written.modeLat = false)
    ∧ (16 ≤ t.toNat → t.toNat ≤ 79 → (readsUnwritten (.expandW t) s = true ↔
        unwritten (t.toNat - 3) ∨ unwritten (t.toNat - 8) ∨ unwritten (t.toNat - 14)
          ∨ unwritten (t.toNat - 16)))
    ∧ (readsUnwritten .initWork s = true ↔ s.written.h = false)
    ∧ (t.toNat ≤ 79 → ∀ i ∈ [Instr.roundF t, .roundG t, .roundH t, .roundI t],
        (readsUnwritten i s = true ↔ s.written.work = false ∨ unwritten t.toNat))
    ∧ (readsUnwritten .accum s = true ↔ s.written.h = false ∨ s.written.work = false
        ∨ s.written.k = false ∨ s.written.nb = false)
    ∧ (readsUnwritten .serialize s = true ↔ s.written.h = false))
  ∧ (∀ (s t : State) (i : Instr), nextAgent s = .engine → decodeUop s.seq.word = some i →
      step s = .next t → t.unwrittenRead = (s.unwrittenRead || readsUnwritten i s))
  ∧ (∀ s t : State, nextAgent s = .host → step s = .next t → t.unwrittenRead = s.unwrittenRead)
  ∧ (∀ (s : State) (i : Instr), Inv s → decodeUop s.seq.word = some i → readsUnwritten i s = false)

/-- R108, R109: from a state of the invariant no step faults, the engine's turn always completes, and the only
refusal is that of an UNSUPPORTED transaction of the host. -/
def Obligations.OnlyUnsupportedTransactionsStopARun : Prop :=
  ∀ s : State, Inv s →
    (∃ t, step s = .next t)
    ∨ (nextAgent s = .host ∧ ∃ x rest, s.inputs = .txn x :: rest ∧ decodeHost x = none
        ∧ step s = .refused (.unsupported x.desc))

/-- R63, R76, R83: every step of either agent, under every interleaving, keeps what has been computed right. -/
def Obligations.EveryStepKeepsTheComputation : Prop :=
  ∀ s t : State, Inv s → Computed s → step s = .next t → Computed t

/-- R83: when a computation ends with DONE, under every interleaving, DIGEST is DigestOf the padded message that
START latched: SHA0 of the message in RAW mode. -/
def Obligations.PublishedDigestIsRight : Prop :=
  ∀ s t : State, Inv s → Computed s → s.busy = true → step s = .next t → t.done = true →
    t.busy = false ∧ t.err = false
    ∧ (s.modeLat = .raw → t.digest = sha0 (msgPrefix s s.lLat.toNat))
    ∧ (s.modeLat = .prepadded → t.digest = digestOf (msgPrefix s s.lLat.toNat))

/-- R123: each engine step brings the end of the computation one step nearer, and no host step but the reset
input moves it. -/
def Obligations.EngineStepsCountDown : Prop :=
  ∀ s t : State, Inv s → s.busy = true → step s = .next t →
    (nextAgent s = .engine → stepsLeft t + 1 = stepsLeft s)
    ∧ (nextAgent s = .host → s.inputs.head? ≠ some .reset → stepsLeft t = stepsLeft s)

/-- R82, R124: an engine that is scheduled ends every computation, after exactly the number of steps that is
left, with DONE or ERR. -/
def Obligations.EveryComputationEnds : Prop :=
  ∀ s : State, Inv s → s.busy = true → s.inputs = [] → s.schedule = [] →
    ∃ t, Host.Core.run core (stepsLeft s) s = .next t ∧ t.busy = false
      ∧ (t.done = true ↔ t.err = false)

/-- R83, R123: a RAW computation: from any idle state of the invariant, a START in RAW mode and then
3 + 162·NB engine steps end with DONE = 1, ERR = 0 and DIGEST = SHA0(MSG[0..L−1]), MSG as before. -/
def Obligations.RawComputationHashesTheMessage : Prop :=
  ∀ (s : State) (v : Word), Inv s → s.busy = false → s.schedule = [] →
    s.inputs = [.txn (txnWr32 0x000 v)] → v.getLsbD 0 = true → v.getLsbD 1 = false →
    (s.lenHi ++ s.lenLo).toNat < 2 ^ 61 →
    (s.lenHi ++ s.lenLo).toNat ≤ 64 * s.params.msgBufBlocks.val →
    ∃ t, Host.Core.run core (1 + (3 + 162 * (((s.lenHi ++ s.lenLo).toNat + 72) / 64))) s = .next t
      ∧ t.busy = false ∧ t.done = true ∧ t.err = false ∧ t.msg = s.msg
      ∧ t.digest = sha0 (msgPrefix s (s.lenHi ++ s.lenLo).toNat)

/-- R83, R123: a PREPADDED computation: as above, with DIGEST = DigestOf(MSG[0..L−1]). -/
def Obligations.PrepaddedComputationHashesTheBuffer : Prop :=
  ∀ (s : State) (v : Word), Inv s → s.busy = false → s.schedule = [] →
    s.inputs = [.txn (txnWr32 0x000 v)] → v.getLsbD 0 = true → v.getLsbD 1 = true →
    (s.lenHi ++ s.lenLo).toNat % 64 = 0 → (s.lenHi ++ s.lenLo).toNat ≠ 0 →
    (s.lenHi ++ s.lenLo).toNat ≤ 64 * s.params.msgBufBlocks.val →
    ∃ t, Host.Core.run core (1 + (3 + 162 * ((s.lenHi ++ s.lenLo).toNat / 64))) s = .next t
      ∧ t.busy = false ∧ t.done = true ∧ t.err = false ∧ t.msg = s.msg
      ∧ t.digest = digestOf (msgPrefix s (s.lenHi ++ s.lenLo).toNat)

/-- R85, R78, R105, R106, R123: a START whose length CHECK rejects, and then one engine step. The state they end
in is written out: the START's effects (MODE, the latches and their marks, DONE, DIGEST), ERR with the code of
highest priority, seq at (IDLE,0), the input taken off (log entry 5), and every other field as before. -/
def Obligations.RejectedStartReportsItsError : Prop :=
  ∀ (s : State) (v : Word), s.busy = false → s.schedule = [] →
    s.inputs = [.txn (txnWr32 0x000 v)] → v.getLsbD 0 = true →
    let l := (s.lenHi ++ s.lenLo).toNat
    let cap := 64 * s.params.msgBufBlocks.val
    let m : Mode := if v.getLsbD 1 then .prepadded else .raw
    ∀ c : BitVec 4,
      ((m = .raw ∧ 2 ^ 61 ≤ l ∧ c = 2)
        ∨ (m = .raw ∧ l < 2 ^ 61 ∧ cap < l ∧ c = 3)
        ∨ (m = .prepadded ∧ (l % 64 ≠ 0 ∨ l = 0) ∧ c = 1)
        ∨ (m = .prepadded ∧ l % 64 = 0 ∧ l ≠ 0 ∧ cap < l ∧ c = 3)) →
      Host.Core.run core 2 s = .next
        { s with
          ctrlMode := m, lLat := s.lenHi ++ s.lenLo, modeLat := m
          written := { s.written with lLat := true, modeLat := true }
          done := false, err := true, errCode := c, digest := ⟨0, 0, 0, 0, 0⟩
          seq := ⟨.idle, 0⟩, inputs := [] }
end

