-- ==== Sys2Proof/Laws/Decode.lean ====
section
/-! SUPPORT. The fields of an encoded word are the fields it was built from. -/

namespace Sys2Proof.Laws

/-- A field of a concatenation that lies in its upper part. -/
theorem extract_append_hi {m n k w : Nat} (x : BitVec m) (y : BitVec n) :
    (x ++ y).extractLsb' (n + k) w = x.extractLsb' k w := by
  apply BitVec.eq_of_getLsbD_eq
  intro i hi
  simp only [BitVec.getLsbD_extractLsb', BitVec.getLsbD_append]
  have : ¬ n + k + i < n := by omega
  have e : n + k + i - n = k + i := by omega
  simp [this, e]

/-- A field of a concatenation that lies in its lower part. -/
theorem extract_append_lo {m n k w : Nat} (x : BitVec m) (y : BitVec n) (h : k + w ≤ n) :
    (x ++ y).extractLsb' k w = y.extractLsb' k w := by
  apply BitVec.eq_of_getLsbD_eq
  intro i hi
  simp only [BitVec.getLsbD_extractLsb', BitVec.getLsbD_append]
  have : k + i < n := by omega
  simp [this]

/-- The field that is the whole word. -/
theorem extract_all {n : Nat} (x : BitVec n) : x.extractLsb' 0 n = x := by
  apply BitVec.eq_of_getLsbD_eq
  intro i hi
  simp [hi]

@[simp] theorem uopOp_uopWord (op : Op) (t : BitVec 7) : uopOp (uopWord op t) = op.number := by
  unfold uopOp uopWord
  exact (extract_append_hi (k := 5) _ _).trans ((extract_append_hi (k := 0) _ _).trans (extract_all _))

@[simp] theorem uopZ_uopWord (op : Op) (t : BitVec 7) : uopZ (uopWord op t) = 0 := by
  unfold uopZ uopWord
  exact (extract_append_hi (k := 0) _ _).trans
    ((extract_append_lo _ _ (by decide)).trans (extract_all _))

@[simp] theorem uopT_uopWord (op : Op) (t : BitVec 7) : uopT (uopWord op t) = t := by
  unfold uopT uopWord
  exact (extract_append_lo _ _ (by decide)).trans (extract_all _)

@[simp] theorem ofNumber_number (op : Op) : Op.ofNumber op.number = some op := by
  cases op <;> rfl

/-- A uop word is the concatenation of its fields (30_encoding.md R46). -/
theorem uop_fields (u : BitVec 16) : uopOp u ++ uopZ u ++ uopT u = u := by
  apply BitVec.eq_of_getLsbD_eq
  intro i hi
  simp only [uopOp, uopZ, uopT, BitVec.getLsbD_append, BitVec.getLsbD_extractLsb']
  by_cases h0 : i < 7
  · simp [h0]
  by_cases h1 : i < 12
  · have : i - 7 < 5 := by omega
    have : 7 + (i - 7) = i := by omega
    simp [*]
  · have : ¬ i - 7 < 5 := by omega
    have : i - 7 - 5 < 4 := by omega
    have e : 12 + (i - 7 - 5) = i := by omega
    simp only [*, if_false, decide_true, Bool.true_and]

/-- The position of a uop word is the position it was built from. -/
@[simp] theorem ofWord_word (p : Seq) : Seq.ofWord p.word = p := by
  simp [Seq.ofWord, Seq.word]

@[simp] theorem descWr_descriptor (wr : Bool) (sz : BitVec 2) (off : BitVec 25) :
    descWr (descriptor wr sz off) = wr := by
  simp only [descWr, descriptor, BitVec.getLsbD_cast, BitVec.getLsbD_append]
  cases wr <;> rfl

@[simp] theorem descSz_descriptor (wr : Bool) (sz : BitVec 2) (off : BitVec 25) :
    descSz (descriptor wr sz off) = sz := by
  unfold descSz descriptor
  exact (extract_append_hi (k := 4) _ _).trans ((extract_append_hi (k := 0) _ _).trans
    ((extract_append_lo _ _ (by decide)).trans (extract_all _)))

@[simp] theorem descZ_descriptor (wr : Bool) (sz : BitVec 2) (off : BitVec 25) :
    descZ (descriptor wr sz off) = 0 := by
  unfold descZ descriptor
  exact (extract_append_hi (k := 0) _ _).trans
    ((extract_append_lo _ _ (by decide)).trans (extract_all _))

@[simp] theorem descOff_descriptor (wr : Bool) (sz : BitVec 2) (off : BitVec 25) :
    descOff (descriptor wr sz off) = off := by
  unfold descOff descriptor
  exact (extract_append_lo _ _ (by decide)).trans (extract_all _)

theorem descIndex_descriptor (wr : Bool) (sz : BitVec 2) (off : BitVec 25) :
    descIndex (descriptor wr sz off) = off.extractLsb' 0 24 := by
  unfold descIndex descriptor
  exact extract_append_lo _ _ (by decide)

@[simp] theorem index_msgOff (i : BitVec 24) : (msgOff i).extractLsb' 0 24 = i :=
  (extract_append_lo _ _ (by decide)).trans (extract_all _)

@[simp] theorem index_lowOff (i : BitVec 24) : (lowOff i).extractLsb' 0 24 = i :=
  (extract_append_lo _ _ (by decide)).trans (extract_all _)

@[simp] theorem inMsgWindow_msgOff (i : BitVec 24) : inMsgWindow (msgOff i) = true := by
  simp only [inMsgWindow, msgOff, BitVec.getLsbD_append]
  rfl

@[simp] theorem inMsgWindow_lowOff (i : BitVec 24) : inMsgWindow (lowOff i) = false := by
  simp only [inMsgWindow, lowOff, BitVec.getLsbD_append]
  rfl

@[simp] theorem toNat_msgOff (i : BitVec 24) : (msgOff i).toNat = 2 ^ 24 + i.toNat := by
  have := i.isLt
  simp only [msgOff, BitVec.toNat_append]
  rw [← Nat.shiftLeft_add_eq_or_of_lt this]; simp [Nat.shiftLeft_eq]

@[simp] theorem toNat_lowOff (i : BitVec 24) : (lowOff i).toNat = i.toNat := by
  simp only [lowOff, BitVec.toNat_append]; simp

/-- The index of an offset below the message window is the offset. -/
theorem index_of_low (d : BitVec 32) (h : inMsgWindow (descOff d) = false) :
    descOff d = lowOff (descIndex d) := by
  have h : d.getLsbD 24 = false := by
    simpa [inMsgWindow, descOff, BitVec.getLsbD_extractLsb'] using h
  apply BitVec.eq_of_getLsbD_eq
  intro i hi
  simp only [descOff, descIndex, lowOff, BitVec.getLsbD_append, BitVec.getLsbD_extractLsb']
  by_cases h0 : i < 24
  · simp [h0, hi]
  · have : i = 24 := by omega
    subst this; simp only [h]; rfl

/-- An offset in the message window is 0x0100_0000 plus its index. -/
theorem index_of_msg (d : BitVec 32) (h : inMsgWindow (descOff d) = true) :
    descOff d = msgOff (descIndex d) := by
  have h : d.getLsbD 24 = true := by
    simpa [inMsgWindow, descOff, BitVec.getLsbD_extractLsb'] using h
  apply BitVec.eq_of_getLsbD_eq
  intro i hi
  simp only [descOff, descIndex, msgOff, BitVec.getLsbD_append, BitVec.getLsbD_extractLsb']
  by_cases h0 : i < 24
  · simp [h0, hi]
  · have : i = 24 := by omega
    subst this; simp only [h]; rfl

/-- A descriptor with Z = 0 is built from its fields (30_encoding.md R50). -/
theorem descriptor_fields (d : BitVec 32) (hz : descZ d = 0) :
    descriptor (descWr d) (descSz d) (descOff d) = d := by
  apply BitVec.eq_of_getLsbD_eq
  intro i hi
  have z (j : Nat) (h : j < 4) : d.getLsbD (25 + j) = false := by
    have := congrArg (fun x => x.getLsbD j) hz
    simpa [descZ, BitVec.getLsbD_extractLsb', h] using this
  simp only [descriptor, descWr, descSz, descOff, BitVec.getLsbD_cast, BitVec.getLsbD_append,
    BitVec.getLsbD_extractLsb']
  by_cases h0 : i < 25
  · simp [h0]
  by_cases h1 : i < 29
  · have := z (i - 25) (by omega)
    have e : 25 + (i - 25) = i := by omega
    rw [e] at this
    have h' : i - 25 < 4 := by omega
    simp only [h0, h', this, if_false, if_true]; simp
  by_cases h2 : i < 31
  · have : ¬ i - 25 < 4 := by omega
    have : i - 25 - 4 < 2 := by omega
    have e : 29 + (i - 25 - 4) = i := by omega
    simp only [*, if_false, if_true, decide_true, Bool.true_and]
  · have : i = 31 := by omega
    subst this; simp

end Sys2Proof.Laws
end

