-- ==== Sys2Proof/Laws/State.lean ====
section
/-! SUPPORT. What each named update of the state leaves in each field; every lemma holds by unfolding. -/

namespace Sys2Proof.Laws

open Sys2Proof.Machine

variable (s : State)

@[simp] theorem setError_params (e : ErrorKind) : (setError e s).params = s.params := rfl
@[simp] theorem setError_ctrlMode (e : ErrorKind) : (setError e s).ctrlMode = s.ctrlMode := rfl
@[simp] theorem setError_done (e : ErrorKind) : (setError e s).done = s.done := rfl
@[simp] theorem setError_err (e : ErrorKind) : (setError e s).err = true := rfl
@[simp] theorem setError_errCode (e : ErrorKind) : (setError e s).errCode = errorCode e := rfl
@[simp] theorem setError_lenLo (e : ErrorKind) : (setError e s).lenLo = s.lenLo := rfl
@[simp] theorem setError_lenHi (e : ErrorKind) : (setError e s).lenHi = s.lenHi := rfl
@[simp] theorem setError_digest (e : ErrorKind) : (setError e s).digest = s.digest := rfl
@[simp] theorem setError_seq (e : ErrorKind) : (setError e s).seq = s.seq := rfl
@[simp] theorem setError_h (e : ErrorKind) : (setError e s).h = s.h := rfl
@[simp] theorem setError_work (e : ErrorKind) : (setError e s).work = s.work := rfl
@[simp] theorem setError_w (e : ErrorKind) : (setError e s).w = s.w := rfl
@[simp] theorem setError_lLat (e : ErrorKind) : (setError e s).lLat = s.lLat := rfl
@[simp] theorem setError_modeLat (e : ErrorKind) : (setError e s).modeLat = s.modeLat := rfl
@[simp] theorem setError_nb (e : ErrorKind) : (setError e s).nb = s.nb := rfl
@[simp] theorem setError_k (e : ErrorKind) : (setError e s).k = s.k := rfl
@[simp] theorem setError_msg (e : ErrorKind) : (setError e s).msg = s.msg := rfl
@[simp] theorem setError_written (e : ErrorKind) : (setError e s).written = s.written := rfl
@[simp] theorem setError_unwrittenRead (e : ErrorKind) : (setError e s).unwrittenRead = s.unwrittenRead := rfl
@[simp] theorem setError_inputs (e : ErrorKind) : (setError e s).inputs = s.inputs := rfl
@[simp] theorem setError_schedule (e : ErrorKind) : (setError e s).schedule = s.schedule := rfl
@[simp] theorem setError_returned (e : ErrorKind) : (setError e s).returned = s.returned := rfl
@[simp] theorem setError_epoch (e : ErrorKind) : (setError e s).epoch = s.epoch := rfl
@[simp] theorem setError_draws (e : ErrorKind) : (setError e s).draws = s.draws := rfl

@[simp] theorem setDone_params : (setDone s).params = s.params := rfl
@[simp] theorem setDone_ctrlMode : (setDone s).ctrlMode = s.ctrlMode := rfl
@[simp] theorem setDone_done : (setDone s).done = true := rfl
@[simp] theorem setDone_err : (setDone s).err = s.err := rfl
@[simp] theorem setDone_errCode : (setDone s).errCode = s.errCode := rfl
@[simp] theorem setDone_lenLo : (setDone s).lenLo = s.lenLo := rfl
@[simp] theorem setDone_lenHi : (setDone s).lenHi = s.lenHi := rfl
@[simp] theorem setDone_digest : (setDone s).digest = s.digest := rfl
@[simp] theorem setDone_seq : (setDone s).seq = s.seq := rfl
@[simp] theorem setDone_h : (setDone s).h = s.h := rfl
@[simp] theorem setDone_work : (setDone s).work = s.work := rfl
@[simp] theorem setDone_w : (setDone s).w = s.w := rfl
@[simp] theorem setDone_lLat : (setDone s).lLat = s.lLat := rfl
@[simp] theorem setDone_modeLat : (setDone s).modeLat = s.modeLat := rfl
@[simp] theorem setDone_nb : (setDone s).nb = s.nb := rfl
@[simp] theorem setDone_k : (setDone s).k = s.k := rfl
@[simp] theorem setDone_msg : (setDone s).msg = s.msg := rfl
@[simp] theorem setDone_written : (setDone s).written = s.written := rfl
@[simp] theorem setDone_unwrittenRead : (setDone s).unwrittenRead = s.unwrittenRead := rfl
@[simp] theorem setDone_inputs : (setDone s).inputs = s.inputs := rfl
@[simp] theorem setDone_schedule : (setDone s).schedule = s.schedule := rfl
@[simp] theorem setDone_returned : (setDone s).returned = s.returned := rfl
@[simp] theorem setDone_epoch : (setDone s).epoch = s.epoch := rfl
@[simp] theorem setDone_draws : (setDone s).draws = s.draws := rfl

@[simp] theorem clearStatus_params : (clearStatus s).params = s.params := rfl
@[simp] theorem clearStatus_ctrlMode : (clearStatus s).ctrlMode = s.ctrlMode := rfl
@[simp] theorem clearStatus_done : (clearStatus s).done = false := rfl
@[simp] theorem clearStatus_err : (clearStatus s).err = false := rfl
@[simp] theorem clearStatus_errCode : (clearStatus s).errCode = 0 := rfl
@[simp] theorem clearStatus_lenLo : (clearStatus s).lenLo = s.lenLo := rfl
@[simp] theorem clearStatus_lenHi : (clearStatus s).lenHi = s.lenHi := rfl
@[simp] theorem clearStatus_digest : (clearStatus s).digest = s.digest := rfl
@[simp] theorem clearStatus_seq : (clearStatus s).seq = s.seq := rfl
@[simp] theorem clearStatus_h : (clearStatus s).h = s.h := rfl
@[simp] theorem clearStatus_work : (clearStatus s).work = s.work := rfl
@[simp] theorem clearStatus_w : (clearStatus s).w = s.w := rfl
@[simp] theorem clearStatus_lLat : (clearStatus s).lLat = s.lLat := rfl
@[simp] theorem clearStatus_modeLat : (clearStatus s).modeLat = s.modeLat := rfl
@[simp] theorem clearStatus_nb : (clearStatus s).nb = s.nb := rfl
@[simp] theorem clearStatus_k : (clearStatus s).k = s.k := rfl
@[simp] theorem clearStatus_msg : (clearStatus s).msg = s.msg := rfl
@[simp] theorem clearStatus_written : (clearStatus s).written = s.written := rfl
@[simp] theorem clearStatus_unwrittenRead : (clearStatus s).unwrittenRead = s.unwrittenRead := rfl
@[simp] theorem clearStatus_inputs : (clearStatus s).inputs = s.inputs := rfl
@[simp] theorem clearStatus_schedule : (clearStatus s).schedule = s.schedule := rfl
@[simp] theorem clearStatus_returned : (clearStatus s).returned = s.returned := rfl
@[simp] theorem clearStatus_epoch : (clearStatus s).epoch = s.epoch := rfl
@[simp] theorem clearStatus_draws : (clearStatus s).draws = s.draws := rfl

@[simp] theorem memWrite_params (i : Nat) (b : Byte) : (memWrite i b s).params = s.params := rfl
@[simp] theorem memWrite_ctrlMode (i : Nat) (b : Byte) : (memWrite i b s).ctrlMode = s.ctrlMode := rfl
@[simp] theorem memWrite_done (i : Nat) (b : Byte) : (memWrite i b s).done = s.done := rfl
@[simp] theorem memWrite_err (i : Nat) (b : Byte) : (memWrite i b s).err = s.err := rfl
@[simp] theorem memWrite_errCode (i : Nat) (b : Byte) : (memWrite i b s).errCode = s.errCode := rfl
@[simp] theorem memWrite_lenLo (i : Nat) (b : Byte) : (memWrite i b s).lenLo = s.lenLo := rfl
@[simp] theorem memWrite_lenHi (i : Nat) (b : Byte) : (memWrite i b s).lenHi = s.lenHi := rfl
@[simp] theorem memWrite_digest (i : Nat) (b : Byte) : (memWrite i b s).digest = s.digest := rfl
@[simp] theorem memWrite_seq (i : Nat) (b : Byte) : (memWrite i b s).seq = s.seq := rfl
@[simp] theorem memWrite_h (i : Nat) (b : Byte) : (memWrite i b s).h = s.h := rfl
@[simp] theorem memWrite_work (i : Nat) (b : Byte) : (memWrite i b s).work = s.work := rfl
@[simp] theorem memWrite_w (i : Nat) (b : Byte) : (memWrite i b s).w = s.w := rfl
@[simp] theorem memWrite_lLat (i : Nat) (b : Byte) : (memWrite i b s).lLat = s.lLat := rfl
@[simp] theorem memWrite_modeLat (i : Nat) (b : Byte) : (memWrite i b s).modeLat = s.modeLat := rfl
@[simp] theorem memWrite_nb (i : Nat) (b : Byte) : (memWrite i b s).nb = s.nb := rfl
@[simp] theorem memWrite_k (i : Nat) (b : Byte) : (memWrite i b s).k = s.k := rfl
@[simp] theorem memWrite_msg (i : Nat) (b : Byte) : (memWrite i b s).msg = Memory.set s.msg i b := rfl
@[simp] theorem memWrite_written (i : Nat) (b : Byte) : (memWrite i b s).written = s.written := rfl
@[simp] theorem memWrite_unwrittenRead (i : Nat) (b : Byte) : (memWrite i b s).unwrittenRead = s.unwrittenRead := rfl
@[simp] theorem memWrite_inputs (i : Nat) (b : Byte) : (memWrite i b s).inputs = s.inputs := rfl
@[simp] theorem memWrite_schedule (i : Nat) (b : Byte) : (memWrite i b s).schedule = s.schedule := rfl
@[simp] theorem memWrite_returned (i : Nat) (b : Byte) : (memWrite i b s).returned = s.returned := rfl
@[simp] theorem memWrite_epoch (i : Nat) (b : Byte) : (memWrite i b s).epoch = s.epoch := rfl
@[simp] theorem memWrite_draws (i : Nat) (b : Byte) : (memWrite i b s).draws = s.draws := rfl

@[simp] theorem writeH_params (x : Hash) : (writeH x s).params = s.params := rfl
@[simp] theorem writeH_ctrlMode (x : Hash) : (writeH x s).ctrlMode = s.ctrlMode := rfl
@[simp] theorem writeH_done (x : Hash) : (writeH x s).done = s.done := rfl
@[simp] theorem writeH_err (x : Hash) : (writeH x s).err = s.err := rfl
@[simp] theorem writeH_errCode (x : Hash) : (writeH x s).errCode = s.errCode := rfl
@[simp] theorem writeH_lenLo (x : Hash) : (writeH x s).lenLo = s.lenLo := rfl
@[simp] theorem writeH_lenHi (x : Hash) : (writeH x s).lenHi = s.lenHi := rfl
@[simp] theorem writeH_digest (x : Hash) : (writeH x s).digest = s.digest := rfl
@[simp] theorem writeH_seq (x : Hash) : (writeH x s).seq = s.seq := rfl
@[simp] theorem writeH_h (x : Hash) : (writeH x s).h = x := rfl
@[simp] theorem writeH_work (x : Hash) : (writeH x s).work = s.work := rfl
@[simp] theorem writeH_w (x : Hash) : (writeH x s).w = s.w := rfl
@[simp] theorem writeH_lLat (x : Hash) : (writeH x s).lLat = s.lLat := rfl
@[simp] theorem writeH_modeLat (x : Hash) : (writeH x s).modeLat = s.modeLat := rfl
@[simp] theorem writeH_nb (x : Hash) : (writeH x s).nb = s.nb := rfl
@[simp] theorem writeH_k (x : Hash) : (writeH x s).k = s.k := rfl
@[simp] theorem writeH_msg (x : Hash) : (writeH x s).msg = s.msg := rfl
@[simp] theorem writeH_written (x : Hash) : (writeH x s).written = { s.written with h := true } := rfl
@[simp] theorem writeH_unwrittenRead (x : Hash) : (writeH x s).unwrittenRead = s.unwrittenRead := rfl
@[simp] theorem writeH_inputs (x : Hash) : (writeH x s).inputs = s.inputs := rfl
@[simp] theorem writeH_schedule (x : Hash) : (writeH x s).schedule = s.schedule := rfl
@[simp] theorem writeH_returned (x : Hash) : (writeH x s).returned = s.returned := rfl
@[simp] theorem writeH_epoch (x : Hash) : (writeH x s).epoch = s.epoch := rfl
@[simp] theorem writeH_draws (x : Hash) : (writeH x s).draws = s.draws := rfl

@[simp] theorem writeWork_params (r : Work) : (writeWork r s).params = s.params := rfl
@[simp] theorem writeWork_ctrlMode (r : Work) : (writeWork r s).ctrlMode = s.ctrlMode := rfl
@[simp] theorem writeWork_done (r : Work) : (writeWork r s).done = s.done := rfl
@[simp] theorem writeWork_err (r : Work) : (writeWork r s).err = s.err := rfl
@[simp] theorem writeWork_errCode (r : Work) : (writeWork r s).errCode = s.errCode := rfl
@[simp] theorem writeWork_lenLo (r : Work) : (writeWork r s).lenLo = s.lenLo := rfl
@[simp] theorem writeWork_lenHi (r : Work) : (writeWork r s).lenHi = s.lenHi := rfl
@[simp] theorem writeWork_digest (r : Work) : (writeWork r s).digest = s.digest := rfl
@[simp] theorem writeWork_seq (r : Work) : (writeWork r s).seq = s.seq := rfl
@[simp] theorem writeWork_h (r : Work) : (writeWork r s).h = s.h := rfl
@[simp] theorem writeWork_work (r : Work) : (writeWork r s).work = r := rfl
@[simp] theorem writeWork_w (r : Work) : (writeWork r s).w = s.w := rfl
@[simp] theorem writeWork_lLat (r : Work) : (writeWork r s).lLat = s.lLat := rfl
@[simp] theorem writeWork_modeLat (r : Work) : (writeWork r s).modeLat = s.modeLat := rfl
@[simp] theorem writeWork_nb (r : Work) : (writeWork r s).nb = s.nb := rfl
@[simp] theorem writeWork_k (r : Work) : (writeWork r s).k = s.k := rfl
@[simp] theorem writeWork_msg (r : Work) : (writeWork r s).msg = s.msg := rfl
@[simp] theorem writeWork_written (r : Work) : (writeWork r s).written = { s.written with work := true } := rfl
@[simp] theorem writeWork_unwrittenRead (r : Work) : (writeWork r s).unwrittenRead = s.unwrittenRead := rfl
@[simp] theorem writeWork_inputs (r : Work) : (writeWork r s).inputs = s.inputs := rfl
@[simp] theorem writeWork_schedule (r : Work) : (writeWork r s).schedule = s.schedule := rfl
@[simp] theorem writeWork_returned (r : Work) : (writeWork r s).returned = s.returned := rfl
@[simp] theorem writeWork_epoch (r : Work) : (writeWork r s).epoch = s.epoch := rfl
@[simp] theorem writeWork_draws (r : Work) : (writeWork r s).draws = s.draws := rfl

@[simp] theorem writeW_params (t : Nat) (v : Word) : (writeW t v s).params = s.params := rfl
@[simp] theorem writeW_ctrlMode (t : Nat) (v : Word) : (writeW t v s).ctrlMode = s.ctrlMode := rfl
@[simp] theorem writeW_done (t : Nat) (v : Word) : (writeW t v s).done = s.done := rfl
@[simp] theorem writeW_err (t : Nat) (v : Word) : (writeW t v s).err = s.err := rfl
@[simp] theorem writeW_errCode (t : Nat) (v : Word) : (writeW t v s).errCode = s.errCode := rfl
@[simp] theorem writeW_lenLo (t : Nat) (v : Word) : (writeW t v s).lenLo = s.lenLo := rfl
@[simp] theorem writeW_lenHi (t : Nat) (v : Word) : (writeW t v s).lenHi = s.lenHi := rfl
@[simp] theorem writeW_digest (t : Nat) (v : Word) : (writeW t v s).digest = s.digest := rfl
@[simp] theorem writeW_seq (t : Nat) (v : Word) : (writeW t v s).seq = s.seq := rfl
@[simp] theorem writeW_h (t : Nat) (v : Word) : (writeW t v s).h = s.h := rfl
@[simp] theorem writeW_work (t : Nat) (v : Word) : (writeW t v s).work = s.work := rfl
@[simp] theorem writeW_w (t : Nat) (v : Word) : (writeW t v s).w = s.w.setIfInBounds t v := rfl
@[simp] theorem writeW_lLat (t : Nat) (v : Word) : (writeW t v s).lLat = s.lLat := rfl
@[simp] theorem writeW_modeLat (t : Nat) (v : Word) : (writeW t v s).modeLat = s.modeLat := rfl
@[simp] theorem writeW_nb (t : Nat) (v : Word) : (writeW t v s).nb = s.nb := rfl
@[simp] theorem writeW_k (t : Nat) (v : Word) : (writeW t v s).k = s.k := rfl
@[simp] theorem writeW_msg (t : Nat) (v : Word) : (writeW t v s).msg = s.msg := rfl
@[simp] theorem writeW_written (t : Nat) (v : Word) : (writeW t v s).written = { s.written with w := s.written.w.setIfInBounds t true } := rfl
@[simp] theorem writeW_unwrittenRead (t : Nat) (v : Word) : (writeW t v s).unwrittenRead = s.unwrittenRead := rfl
@[simp] theorem writeW_inputs (t : Nat) (v : Word) : (writeW t v s).inputs = s.inputs := rfl
@[simp] theorem writeW_schedule (t : Nat) (v : Word) : (writeW t v s).schedule = s.schedule := rfl
@[simp] theorem writeW_returned (t : Nat) (v : Word) : (writeW t v s).returned = s.returned := rfl
@[simp] theorem writeW_epoch (t : Nat) (v : Word) : (writeW t v s).epoch = s.epoch := rfl
@[simp] theorem writeW_draws (t : Nat) (v : Word) : (writeW t v s).draws = s.draws := rfl

@[simp] theorem writeNB_params (n : Nat) : (writeNB n s).params = s.params := rfl
@[simp] theorem writeNB_ctrlMode (n : Nat) : (writeNB n s).ctrlMode = s.ctrlMode := rfl
@[simp] theorem writeNB_done (n : Nat) : (writeNB n s).done = s.done := rfl
@[simp] theorem writeNB_err (n : Nat) : (writeNB n s).err = s.err := rfl
@[simp] theorem writeNB_errCode (n : Nat) : (writeNB n s).errCode = s.errCode := rfl
@[simp] theorem writeNB_lenLo (n : Nat) : (writeNB n s).lenLo = s.lenLo := rfl
@[simp] theorem writeNB_lenHi (n : Nat) : (writeNB n s).lenHi = s.lenHi := rfl
@[simp] theorem writeNB_digest (n : Nat) : (writeNB n s).digest = s.digest := rfl
@[simp] theorem writeNB_seq (n : Nat) : (writeNB n s).seq = s.seq := rfl
@[simp] theorem writeNB_h (n : Nat) : (writeNB n s).h = s.h := rfl
@[simp] theorem writeNB_work (n : Nat) : (writeNB n s).work = s.work := rfl
@[simp] theorem writeNB_w (n : Nat) : (writeNB n s).w = s.w := rfl
@[simp] theorem writeNB_lLat (n : Nat) : (writeNB n s).lLat = s.lLat := rfl
@[simp] theorem writeNB_modeLat (n : Nat) : (writeNB n s).modeLat = s.modeLat := rfl
@[simp] theorem writeNB_nb (n : Nat) : (writeNB n s).nb = n := rfl
@[simp] theorem writeNB_k (n : Nat) : (writeNB n s).k = s.k := rfl
@[simp] theorem writeNB_msg (n : Nat) : (writeNB n s).msg = s.msg := rfl
@[simp] theorem writeNB_written (n : Nat) : (writeNB n s).written = { s.written with nb := true } := rfl
@[simp] theorem writeNB_unwrittenRead (n : Nat) : (writeNB n s).unwrittenRead = s.unwrittenRead := rfl
@[simp] theorem writeNB_inputs (n : Nat) : (writeNB n s).inputs = s.inputs := rfl
@[simp] theorem writeNB_schedule (n : Nat) : (writeNB n s).schedule = s.schedule := rfl
@[simp] theorem writeNB_returned (n : Nat) : (writeNB n s).returned = s.returned := rfl
@[simp] theorem writeNB_epoch (n : Nat) : (writeNB n s).epoch = s.epoch := rfl
@[simp] theorem writeNB_draws (n : Nat) : (writeNB n s).draws = s.draws := rfl

@[simp] theorem writeK_params (n : Nat) : (writeK n s).params = s.params := rfl
@[simp] theorem writeK_ctrlMode (n : Nat) : (writeK n s).ctrlMode = s.ctrlMode := rfl
@[simp] theorem writeK_done (n : Nat) : (writeK n s).done = s.done := rfl
@[simp] theorem writeK_err (n : Nat) : (writeK n s).err = s.err := rfl
@[simp] theorem writeK_errCode (n : Nat) : (writeK n s).errCode = s.errCode := rfl
@[simp] theorem writeK_lenLo (n : Nat) : (writeK n s).lenLo = s.lenLo := rfl
@[simp] theorem writeK_lenHi (n : Nat) : (writeK n s).lenHi = s.lenHi := rfl
@[simp] theorem writeK_digest (n : Nat) : (writeK n s).digest = s.digest := rfl
@[simp] theorem writeK_seq (n : Nat) : (writeK n s).seq = s.seq := rfl
@[simp] theorem writeK_h (n : Nat) : (writeK n s).h = s.h := rfl
@[simp] theorem writeK_work (n : Nat) : (writeK n s).work = s.work := rfl
@[simp] theorem writeK_w (n : Nat) : (writeK n s).w = s.w := rfl
@[simp] theorem writeK_lLat (n : Nat) : (writeK n s).lLat = s.lLat := rfl
@[simp] theorem writeK_modeLat (n : Nat) : (writeK n s).modeLat = s.modeLat := rfl
@[simp] theorem writeK_nb (n : Nat) : (writeK n s).nb = s.nb := rfl
@[simp] theorem writeK_k (n : Nat) : (writeK n s).k = n := rfl
@[simp] theorem writeK_msg (n : Nat) : (writeK n s).msg = s.msg := rfl
@[simp] theorem writeK_written (n : Nat) : (writeK n s).written = { s.written with k := true } := rfl
@[simp] theorem writeK_unwrittenRead (n : Nat) : (writeK n s).unwrittenRead = s.unwrittenRead := rfl
@[simp] theorem writeK_inputs (n : Nat) : (writeK n s).inputs = s.inputs := rfl
@[simp] theorem writeK_schedule (n : Nat) : (writeK n s).schedule = s.schedule := rfl
@[simp] theorem writeK_returned (n : Nat) : (writeK n s).returned = s.returned := rfl
@[simp] theorem writeK_epoch (n : Nat) : (writeK n s).epoch = s.epoch := rfl
@[simp] theorem writeK_draws (n : Nat) : (writeK n s).draws = s.draws := rfl

@[simp] theorem writeLatches_params (l : Length) (m : Mode) : (writeLatches l m s).params = s.params := rfl
@[simp] theorem writeLatches_ctrlMode (l : Length) (m : Mode) : (writeLatches l m s).ctrlMode = s.ctrlMode := rfl
@[simp] theorem writeLatches_done (l : Length) (m : Mode) : (writeLatches l m s).done = s.done := rfl
@[simp] theorem writeLatches_err (l : Length) (m : Mode) : (writeLatches l m s).err = s.err := rfl
@[simp] theorem writeLatches_errCode (l : Length) (m : Mode) : (writeLatches l m s).errCode = s.errCode := rfl
@[simp] theorem writeLatches_lenLo (l : Length) (m : Mode) : (writeLatches l m s).lenLo = s.lenLo := rfl
@[simp] theorem writeLatches_lenHi (l : Length) (m : Mode) : (writeLatches l m s).lenHi = s.lenHi := rfl
@[simp] theorem writeLatches_digest (l : Length) (m : Mode) : (writeLatches l m s).digest = s.digest := rfl
@[simp] theorem writeLatches_seq (l : Length) (m : Mode) : (writeLatches l m s).seq = s.seq := rfl
@[simp] theorem writeLatches_h (l : Length) (m : Mode) : (writeLatches l m s).h = s.h := rfl
@[simp] theorem writeLatches_work (l : Length) (m : Mode) : (writeLatches l m s).work = s.work := rfl
@[simp] theorem writeLatches_w (l : Length) (m : Mode) : (writeLatches l m s).w = s.w := rfl
@[simp] theorem writeLatches_lLat (l : Length) (m : Mode) : (writeLatches l m s).lLat = l := rfl
@[simp] theorem writeLatches_modeLat (l : Length) (m : Mode) : (writeLatches l m s).modeLat = m := rfl
@[simp] theorem writeLatches_nb (l : Length) (m : Mode) : (writeLatches l m s).nb = s.nb := rfl
@[simp] theorem writeLatches_k (l : Length) (m : Mode) : (writeLatches l m s).k = s.k := rfl
@[simp] theorem writeLatches_msg (l : Length) (m : Mode) : (writeLatches l m s).msg = s.msg := rfl
@[simp] theorem writeLatches_written (l : Length) (m : Mode) : (writeLatches l m s).written = { s.written with lLat := true, modeLat := true } := rfl
@[simp] theorem writeLatches_unwrittenRead (l : Length) (m : Mode) : (writeLatches l m s).unwrittenRead = s.unwrittenRead := rfl
@[simp] theorem writeLatches_inputs (l : Length) (m : Mode) : (writeLatches l m s).inputs = s.inputs := rfl
@[simp] theorem writeLatches_schedule (l : Length) (m : Mode) : (writeLatches l m s).schedule = s.schedule := rfl
@[simp] theorem writeLatches_returned (l : Length) (m : Mode) : (writeLatches l m s).returned = s.returned := rfl
@[simp] theorem writeLatches_epoch (l : Length) (m : Mode) : (writeLatches l m s).epoch = s.epoch := rfl
@[simp] theorem writeLatches_draws (l : Length) (m : Mode) : (writeLatches l m s).draws = s.draws := rfl

@[simp] theorem writeDigest_params (d : Hash) : (writeDigest d s).params = s.params := rfl
@[simp] theorem writeDigest_ctrlMode (d : Hash) : (writeDigest d s).ctrlMode = s.ctrlMode := rfl
@[simp] theorem writeDigest_done (d : Hash) : (writeDigest d s).done = s.done := rfl
@[simp] theorem writeDigest_err (d : Hash) : (writeDigest d s).err = s.err := rfl
@[simp] theorem writeDigest_errCode (d : Hash) : (writeDigest d s).errCode = s.errCode := rfl
@[simp] theorem writeDigest_lenLo (d : Hash) : (writeDigest d s).lenLo = s.lenLo := rfl
@[simp] theorem writeDigest_lenHi (d : Hash) : (writeDigest d s).lenHi = s.lenHi := rfl
@[simp] theorem writeDigest_digest (d : Hash) : (writeDigest d s).digest = d := rfl
@[simp] theorem writeDigest_seq (d : Hash) : (writeDigest d s).seq = s.seq := rfl
@[simp] theorem writeDigest_h (d : Hash) : (writeDigest d s).h = s.h := rfl
@[simp] theorem writeDigest_work (d : Hash) : (writeDigest d s).work = s.work := rfl
@[simp] theorem writeDigest_w (d : Hash) : (writeDigest d s).w = s.w := rfl
@[simp] theorem writeDigest_lLat (d : Hash) : (writeDigest d s).lLat = s.lLat := rfl
@[simp] theorem writeDigest_modeLat (d : Hash) : (writeDigest d s).modeLat = s.modeLat := rfl
@[simp] theorem writeDigest_nb (d : Hash) : (writeDigest d s).nb = s.nb := rfl
@[simp] theorem writeDigest_k (d : Hash) : (writeDigest d s).k = s.k := rfl
@[simp] theorem writeDigest_msg (d : Hash) : (writeDigest d s).msg = s.msg := rfl
@[simp] theorem writeDigest_written (d : Hash) : (writeDigest d s).written = s.written := rfl
@[simp] theorem writeDigest_unwrittenRead (d : Hash) : (writeDigest d s).unwrittenRead = s.unwrittenRead := rfl
@[simp] theorem writeDigest_inputs (d : Hash) : (writeDigest d s).inputs = s.inputs := rfl
@[simp] theorem writeDigest_schedule (d : Hash) : (writeDigest d s).schedule = s.schedule := rfl
@[simp] theorem writeDigest_returned (d : Hash) : (writeDigest d s).returned = s.returned := rfl
@[simp] theorem writeDigest_epoch (d : Hash) : (writeDigest d s).epoch = s.epoch := rfl
@[simp] theorem writeDigest_draws (d : Hash) : (writeDigest d s).draws = s.draws := rfl

@[simp] theorem noteReads_params (i : Instr) : (noteReads i s).params = s.params := rfl
@[simp] theorem noteReads_ctrlMode (i : Instr) : (noteReads i s).ctrlMode = s.ctrlMode := rfl
@[simp] theorem noteReads_done (i : Instr) : (noteReads i s).done = s.done := rfl
@[simp] theorem noteReads_err (i : Instr) : (noteReads i s).err = s.err := rfl
@[simp] theorem noteReads_errCode (i : Instr) : (noteReads i s).errCode = s.errCode := rfl
@[simp] theorem noteReads_lenLo (i : Instr) : (noteReads i s).lenLo = s.lenLo := rfl
@[simp] theorem noteReads_lenHi (i : Instr) : (noteReads i s).lenHi = s.lenHi := rfl
@[simp] theorem noteReads_digest (i : Instr) : (noteReads i s).digest = s.digest := rfl
@[simp] theorem noteReads_seq (i : Instr) : (noteReads i s).seq = s.seq := rfl
@[simp] theorem noteReads_h (i : Instr) : (noteReads i s).h = s.h := rfl
@[simp] theorem noteReads_work (i : Instr) : (noteReads i s).work = s.work := rfl
@[simp] theorem noteReads_w (i : Instr) : (noteReads i s).w = s.w := rfl
@[simp] theorem noteReads_lLat (i : Instr) : (noteReads i s).lLat = s.lLat := rfl
@[simp] theorem noteReads_modeLat (i : Instr) : (noteReads i s).modeLat = s.modeLat := rfl
@[simp] theorem noteReads_nb (i : Instr) : (noteReads i s).nb = s.nb := rfl
@[simp] theorem noteReads_k (i : Instr) : (noteReads i s).k = s.k := rfl
@[simp] theorem noteReads_msg (i : Instr) : (noteReads i s).msg = s.msg := rfl
@[simp] theorem noteReads_written (i : Instr) : (noteReads i s).written = s.written := rfl
@[simp] theorem noteReads_unwrittenRead (i : Instr) : (noteReads i s).unwrittenRead = (s.unwrittenRead || readsUnwritten i s) := rfl
@[simp] theorem noteReads_inputs (i : Instr) : (noteReads i s).inputs = s.inputs := rfl
@[simp] theorem noteReads_schedule (i : Instr) : (noteReads i s).schedule = s.schedule := rfl
@[simp] theorem noteReads_returned (i : Instr) : (noteReads i s).returned = s.returned := rfl
@[simp] theorem noteReads_epoch (i : Instr) : (noteReads i s).epoch = s.epoch := rfl
@[simp] theorem noteReads_draws (i : Instr) : (noteReads i s).draws = s.draws := rfl

@[simp] theorem setSeq_params (p : Seq) : (setSeq p s).params = s.params := rfl
@[simp] theorem setSeq_ctrlMode (p : Seq) : (setSeq p s).ctrlMode = s.ctrlMode := rfl
@[simp] theorem setSeq_done (p : Seq) : (setSeq p s).done = s.done := rfl
@[simp] theorem setSeq_err (p : Seq) : (setSeq p s).err = s.err := rfl
@[simp] theorem setSeq_errCode (p : Seq) : (setSeq p s).errCode = s.errCode := rfl
@[simp] theorem setSeq_lenLo (p : Seq) : (setSeq p s).lenLo = s.lenLo := rfl
@[simp] theorem setSeq_lenHi (p : Seq) : (setSeq p s).lenHi = s.lenHi := rfl
@[simp] theorem setSeq_digest (p : Seq) : (setSeq p s).digest = s.digest := rfl
@[simp] theorem setSeq_seq (p : Seq) : (setSeq p s).seq = p := rfl
@[simp] theorem setSeq_h (p : Seq) : (setSeq p s).h = s.h := rfl
@[simp] theorem setSeq_work (p : Seq) : (setSeq p s).work = s.work := rfl
@[simp] theorem setSeq_w (p : Seq) : (setSeq p s).w = s.w := rfl
@[simp] theorem setSeq_lLat (p : Seq) : (setSeq p s).lLat = s.lLat := rfl
@[simp] theorem setSeq_modeLat (p : Seq) : (setSeq p s).modeLat = s.modeLat := rfl
@[simp] theorem setSeq_nb (p : Seq) : (setSeq p s).nb = s.nb := rfl
@[simp] theorem setSeq_k (p : Seq) : (setSeq p s).k = s.k := rfl
@[simp] theorem setSeq_msg (p : Seq) : (setSeq p s).msg = s.msg := rfl
@[simp] theorem setSeq_written (p : Seq) : (setSeq p s).written = s.written := rfl
@[simp] theorem setSeq_unwrittenRead (p : Seq) : (setSeq p s).unwrittenRead = s.unwrittenRead := rfl
@[simp] theorem setSeq_inputs (p : Seq) : (setSeq p s).inputs = s.inputs := rfl
@[simp] theorem setSeq_schedule (p : Seq) : (setSeq p s).schedule = s.schedule := rfl
@[simp] theorem setSeq_returned (p : Seq) : (setSeq p s).returned = s.returned := rfl
@[simp] theorem setSeq_epoch (p : Seq) : (setSeq p s).epoch = s.epoch := rfl
@[simp] theorem setSeq_draws (p : Seq) : (setSeq p s).draws = s.draws := rfl

@[simp] theorem advance_params (p : Seq) : (advance p s).params = s.params := rfl
@[simp] theorem advance_ctrlMode (p : Seq) : (advance p s).ctrlMode = s.ctrlMode := rfl
@[simp] theorem advance_done (p : Seq) : (advance p s).done = s.done := rfl
@[simp] theorem advance_err (p : Seq) : (advance p s).err = s.err := rfl
@[simp] theorem advance_errCode (p : Seq) : (advance p s).errCode = s.errCode := rfl
@[simp] theorem advance_lenLo (p : Seq) : (advance p s).lenLo = s.lenLo := rfl
@[simp] theorem advance_lenHi (p : Seq) : (advance p s).lenHi = s.lenHi := rfl
@[simp] theorem advance_digest (p : Seq) : (advance p s).digest = s.digest := rfl
@[simp] theorem advance_seq (p : Seq) : (advance p s).seq = nextSeq p := rfl
@[simp] theorem advance_h (p : Seq) : (advance p s).h = s.h := rfl
@[simp] theorem advance_work (p : Seq) : (advance p s).work = s.work := rfl
@[simp] theorem advance_w (p : Seq) : (advance p s).w = s.w := rfl
@[simp] theorem advance_lLat (p : Seq) : (advance p s).lLat = s.lLat := rfl
@[simp] theorem advance_modeLat (p : Seq) : (advance p s).modeLat = s.modeLat := rfl
@[simp] theorem advance_nb (p : Seq) : (advance p s).nb = s.nb := rfl
@[simp] theorem advance_k (p : Seq) : (advance p s).k = s.k := rfl
@[simp] theorem advance_msg (p : Seq) : (advance p s).msg = s.msg := rfl
@[simp] theorem advance_written (p : Seq) : (advance p s).written = s.written := rfl
@[simp] theorem advance_unwrittenRead (p : Seq) : (advance p s).unwrittenRead = s.unwrittenRead := rfl
@[simp] theorem advance_inputs (p : Seq) : (advance p s).inputs = s.inputs := rfl
@[simp] theorem advance_schedule (p : Seq) : (advance p s).schedule = s.schedule := rfl
@[simp] theorem advance_returned (p : Seq) : (advance p s).returned = s.returned := rfl
@[simp] theorem advance_epoch (p : Seq) : (advance p s).epoch = s.epoch := rfl
@[simp] theorem advance_draws (p : Seq) : (advance p s).draws = s.draws := rfl

@[simp] theorem takeDraw_params : (takeDraw s).params = s.params := rfl
@[simp] theorem takeDraw_ctrlMode : (takeDraw s).ctrlMode = s.ctrlMode := rfl
@[simp] theorem takeDraw_done : (takeDraw s).done = s.done := rfl
@[simp] theorem takeDraw_err : (takeDraw s).err = s.err := rfl
@[simp] theorem takeDraw_errCode : (takeDraw s).errCode = s.errCode := rfl
@[simp] theorem takeDraw_lenLo : (takeDraw s).lenLo = s.lenLo := rfl
@[simp] theorem takeDraw_lenHi : (takeDraw s).lenHi = s.lenHi := rfl
@[simp] theorem takeDraw_digest : (takeDraw s).digest = s.digest := rfl
@[simp] theorem takeDraw_seq : (takeDraw s).seq = s.seq := rfl
@[simp] theorem takeDraw_h : (takeDraw s).h = s.h := rfl
@[simp] theorem takeDraw_work : (takeDraw s).work = s.work := rfl
@[simp] theorem takeDraw_w : (takeDraw s).w = s.w := rfl
@[simp] theorem takeDraw_lLat : (takeDraw s).lLat = s.lLat := rfl
@[simp] theorem takeDraw_modeLat : (takeDraw s).modeLat = s.modeLat := rfl
@[simp] theorem takeDraw_nb : (takeDraw s).nb = s.nb := rfl
@[simp] theorem takeDraw_k : (takeDraw s).k = s.k := rfl
@[simp] theorem takeDraw_msg : (takeDraw s).msg = s.msg := rfl
@[simp] theorem takeDraw_written : (takeDraw s).written = s.written := rfl
@[simp] theorem takeDraw_unwrittenRead : (takeDraw s).unwrittenRead = s.unwrittenRead := rfl
@[simp] theorem takeDraw_inputs : (takeDraw s).inputs = s.inputs := rfl
@[simp] theorem takeDraw_schedule : (takeDraw s).schedule = s.schedule := rfl
@[simp] theorem takeDraw_returned : (takeDraw s).returned = s.returned := rfl
@[simp] theorem takeDraw_epoch : (takeDraw s).epoch = s.epoch := rfl
@[simp] theorem takeDraw_draws : (takeDraw s).draws = s.draws + 1 := rfl

@[simp] theorem returnValue_params (v : BusValue) : (returnValue v s).params = s.params := rfl
@[simp] theorem returnValue_ctrlMode (v : BusValue) : (returnValue v s).ctrlMode = s.ctrlMode := rfl
@[simp] theorem returnValue_done (v : BusValue) : (returnValue v s).done = s.done := rfl
@[simp] theorem returnValue_err (v : BusValue) : (returnValue v s).err = s.err := rfl
@[simp] theorem returnValue_errCode (v : BusValue) : (returnValue v s).errCode = s.errCode := rfl
@[simp] theorem returnValue_lenLo (v : BusValue) : (returnValue v s).lenLo = s.lenLo := rfl
@[simp] theorem returnValue_lenHi (v : BusValue) : (returnValue v s).lenHi = s.lenHi := rfl
@[simp] theorem returnValue_digest (v : BusValue) : (returnValue v s).digest = s.digest := rfl
@[simp] theorem returnValue_seq (v : BusValue) : (returnValue v s).seq = s.seq := rfl
@[simp] theorem returnValue_h (v : BusValue) : (returnValue v s).h = s.h := rfl
@[simp] theorem returnValue_work (v : BusValue) : (returnValue v s).work = s.work := rfl
@[simp] theorem returnValue_w (v : BusValue) : (returnValue v s).w = s.w := rfl
@[simp] theorem returnValue_lLat (v : BusValue) : (returnValue v s).lLat = s.lLat := rfl
@[simp] theorem returnValue_modeLat (v : BusValue) : (returnValue v s).modeLat = s.modeLat := rfl
@[simp] theorem returnValue_nb (v : BusValue) : (returnValue v s).nb = s.nb := rfl
@[simp] theorem returnValue_k (v : BusValue) : (returnValue v s).k = s.k := rfl
@[simp] theorem returnValue_msg (v : BusValue) : (returnValue v s).msg = s.msg := rfl
@[simp] theorem returnValue_written (v : BusValue) : (returnValue v s).written = s.written := rfl
@[simp] theorem returnValue_unwrittenRead (v : BusValue) : (returnValue v s).unwrittenRead = s.unwrittenRead := rfl
@[simp] theorem returnValue_inputs (v : BusValue) : (returnValue v s).inputs = s.inputs := rfl
@[simp] theorem returnValue_schedule (v : BusValue) : (returnValue v s).schedule = s.schedule := rfl
@[simp] theorem returnValue_returned (v : BusValue) : (returnValue v s).returned = v :: s.returned := rfl
@[simp] theorem returnValue_epoch (v : BusValue) : (returnValue v s).epoch = s.epoch := rfl
@[simp] theorem returnValue_draws (v : BusValue) : (returnValue v s).draws = s.draws := rfl

@[simp] theorem writeBE32_params (i : Nat) (v : Word) : (writeBE32 i v s).params = s.params := rfl
@[simp] theorem writeBE32_ctrlMode (i : Nat) (v : Word) : (writeBE32 i v s).ctrlMode = s.ctrlMode := rfl
@[simp] theorem writeBE32_done (i : Nat) (v : Word) : (writeBE32 i v s).done = s.done := rfl
@[simp] theorem writeBE32_err (i : Nat) (v : Word) : (writeBE32 i v s).err = s.err := rfl
@[simp] theorem writeBE32_errCode (i : Nat) (v : Word) : (writeBE32 i v s).errCode = s.errCode := rfl
@[simp] theorem writeBE32_lenLo (i : Nat) (v : Word) : (writeBE32 i v s).lenLo = s.lenLo := rfl
@[simp] theorem writeBE32_lenHi (i : Nat) (v : Word) : (writeBE32 i v s).lenHi = s.lenHi := rfl
@[simp] theorem writeBE32_digest (i : Nat) (v : Word) : (writeBE32 i v s).digest = s.digest := rfl
@[simp] theorem writeBE32_seq (i : Nat) (v : Word) : (writeBE32 i v s).seq = s.seq := rfl
@[simp] theorem writeBE32_h (i : Nat) (v : Word) : (writeBE32 i v s).h = s.h := rfl
@[simp] theorem writeBE32_work (i : Nat) (v : Word) : (writeBE32 i v s).work = s.work := rfl
@[simp] theorem writeBE32_w (i : Nat) (v : Word) : (writeBE32 i v s).w = s.w := rfl
@[simp] theorem writeBE32_lLat (i : Nat) (v : Word) : (writeBE32 i v s).lLat = s.lLat := rfl
@[simp] theorem writeBE32_modeLat (i : Nat) (v : Word) : (writeBE32 i v s).modeLat = s.modeLat := rfl
@[simp] theorem writeBE32_nb (i : Nat) (v : Word) : (writeBE32 i v s).nb = s.nb := rfl
@[simp] theorem writeBE32_k (i : Nat) (v : Word) : (writeBE32 i v s).k = s.k := rfl
@[simp] theorem writeBE32_written (i : Nat) (v : Word) : (writeBE32 i v s).written = s.written := rfl
@[simp] theorem writeBE32_unwrittenRead (i : Nat) (v : Word) : (writeBE32 i v s).unwrittenRead = s.unwrittenRead := rfl
@[simp] theorem writeBE32_inputs (i : Nat) (v : Word) : (writeBE32 i v s).inputs = s.inputs := rfl
@[simp] theorem writeBE32_schedule (i : Nat) (v : Word) : (writeBE32 i v s).schedule = s.schedule := rfl
@[simp] theorem writeBE32_returned (i : Nat) (v : Word) : (writeBE32 i v s).returned = s.returned := rfl
@[simp] theorem writeBE32_epoch (i : Nat) (v : Word) : (writeBE32 i v s).epoch = s.epoch := rfl
@[simp] theorem writeBE32_draws (i : Nat) (v : Word) : (writeBE32 i v s).draws = s.draws := rfl

@[simp] theorem raiseError_params (e : ErrorKind) : (raiseError e s).params = s.params := rfl
@[simp] theorem raiseError_ctrlMode (e : ErrorKind) : (raiseError e s).ctrlMode = s.ctrlMode := rfl
@[simp] theorem raiseError_done (e : ErrorKind) : (raiseError e s).done = s.done := rfl
@[simp] theorem raiseError_err (e : ErrorKind) : (raiseError e s).err = true := rfl
@[simp] theorem raiseError_errCode (e : ErrorKind) : (raiseError e s).errCode = errorCode e := rfl
@[simp] theorem raiseError_lenLo (e : ErrorKind) : (raiseError e s).lenLo = s.lenLo := rfl
@[simp] theorem raiseError_lenHi (e : ErrorKind) : (raiseError e s).lenHi = s.lenHi := rfl
@[simp] theorem raiseError_digest (e : ErrorKind) : (raiseError e s).digest = s.digest := rfl
@[simp] theorem raiseError_seq (e : ErrorKind) : (raiseError e s).seq = ⟨.idle, 0⟩ := rfl
@[simp] theorem raiseError_h (e : ErrorKind) : (raiseError e s).h = s.h := rfl
@[simp] theorem raiseError_work (e : ErrorKind) : (raiseError e s).work = s.work := rfl
@[simp] theorem raiseError_w (e : ErrorKind) : (raiseError e s).w = s.w := rfl
@[simp] theorem raiseError_lLat (e : ErrorKind) : (raiseError e s).lLat = s.lLat := rfl
@[simp] theorem raiseError_modeLat (e : ErrorKind) : (raiseError e s).modeLat = s.modeLat := rfl
@[simp] theorem raiseError_nb (e : ErrorKind) : (raiseError e s).nb = s.nb := rfl
@[simp] theorem raiseError_k (e : ErrorKind) : (raiseError e s).k = s.k := rfl
@[simp] theorem raiseError_msg (e : ErrorKind) : (raiseError e s).msg = s.msg := rfl
@[simp] theorem raiseError_written (e : ErrorKind) : (raiseError e s).written = s.written := rfl
@[simp] theorem raiseError_unwrittenRead (e : ErrorKind) : (raiseError e s).unwrittenRead = s.unwrittenRead := rfl
@[simp] theorem raiseError_inputs (e : ErrorKind) : (raiseError e s).inputs = s.inputs := rfl
@[simp] theorem raiseError_schedule (e : ErrorKind) : (raiseError e s).schedule = s.schedule := rfl
@[simp] theorem raiseError_returned (e : ErrorKind) : (raiseError e s).returned = s.returned := rfl
@[simp] theorem raiseError_epoch (e : ErrorKind) : (raiseError e s).epoch = s.epoch := rfl
@[simp] theorem raiseError_draws (e : ErrorKind) : (raiseError e s).draws = s.draws := rfl

@[simp] theorem startComputation_params (m : Mode) : (startComputation m s).params = s.params := rfl
@[simp] theorem startComputation_ctrlMode (m : Mode) : (startComputation m s).ctrlMode = s.ctrlMode := rfl
@[simp] theorem startComputation_done (m : Mode) : (startComputation m s).done = false := rfl
@[simp] theorem startComputation_err (m : Mode) : (startComputation m s).err = false := rfl
@[simp] theorem startComputation_errCode (m : Mode) : (startComputation m s).errCode = 0 := rfl
@[simp] theorem startComputation_lenLo (m : Mode) : (startComputation m s).lenLo = s.lenLo := rfl
@[simp] theorem startComputation_lenHi (m : Mode) : (startComputation m s).lenHi = s.lenHi := rfl
@[simp] theorem startComputation_digest (m : Mode) : (startComputation m s).digest = Hash.zero := rfl
@[simp] theorem startComputation_seq (m : Mode) : (startComputation m s).seq = ⟨.check, 0⟩ := rfl
@[simp] theorem startComputation_h (m : Mode) : (startComputation m s).h = s.h := rfl
@[simp] theorem startComputation_work (m : Mode) : (startComputation m s).work = s.work := rfl
@[simp] theorem startComputation_w (m : Mode) : (startComputation m s).w = s.w := rfl
@[simp] theorem startComputation_lLat (m : Mode) : (startComputation m s).lLat = s.len := rfl
@[simp] theorem startComputation_modeLat (m : Mode) : (startComputation m s).modeLat = m := rfl
@[simp] theorem startComputation_nb (m : Mode) : (startComputation m s).nb = s.nb := rfl
@[simp] theorem startComputation_k (m : Mode) : (startComputation m s).k = s.k := rfl
@[simp] theorem startComputation_msg (m : Mode) : (startComputation m s).msg = s.msg := rfl
@[simp] theorem startComputation_written (m : Mode) : (startComputation m s).written = { s.written with lLat := true, modeLat := true } := rfl
@[simp] theorem startComputation_unwrittenRead (m : Mode) : (startComputation m s).unwrittenRead = s.unwrittenRead := rfl
@[simp] theorem startComputation_inputs (m : Mode) : (startComputation m s).inputs = s.inputs := rfl
@[simp] theorem startComputation_schedule (m : Mode) : (startComputation m s).schedule = s.schedule := rfl
@[simp] theorem startComputation_returned (m : Mode) : (startComputation m s).returned = s.returned := rfl
@[simp] theorem startComputation_epoch (m : Mode) : (startComputation m s).epoch = s.epoch := rfl
@[simp] theorem startComputation_draws (m : Mode) : (startComputation m s).draws = s.draws := rfl

@[simp] theorem takeTurn_params : (takeTurn s).params = s.params := rfl
@[simp] theorem takeTurn_ctrlMode : (takeTurn s).ctrlMode = s.ctrlMode := rfl
@[simp] theorem takeTurn_done : (takeTurn s).done = s.done := rfl
@[simp] theorem takeTurn_err : (takeTurn s).err = s.err := rfl
@[simp] theorem takeTurn_errCode : (takeTurn s).errCode = s.errCode := rfl
@[simp] theorem takeTurn_lenLo : (takeTurn s).lenLo = s.lenLo := rfl
@[simp] theorem takeTurn_lenHi : (takeTurn s).lenHi = s.lenHi := rfl
@[simp] theorem takeTurn_digest : (takeTurn s).digest = s.digest := rfl
@[simp] theorem takeTurn_seq : (takeTurn s).seq = s.seq := rfl
@[simp] theorem takeTurn_h : (takeTurn s).h = s.h := rfl
@[simp] theorem takeTurn_work : (takeTurn s).work = s.work := rfl
@[simp] theorem takeTurn_w : (takeTurn s).w = s.w := rfl
@[simp] theorem takeTurn_lLat : (takeTurn s).lLat = s.lLat := rfl
@[simp] theorem takeTurn_modeLat : (takeTurn s).modeLat = s.modeLat := rfl
@[simp] theorem takeTurn_nb : (takeTurn s).nb = s.nb := rfl
@[simp] theorem takeTurn_k : (takeTurn s).k = s.k := rfl
@[simp] theorem takeTurn_msg : (takeTurn s).msg = s.msg := rfl
@[simp] theorem takeTurn_written : (takeTurn s).written = s.written := rfl
@[simp] theorem takeTurn_unwrittenRead : (takeTurn s).unwrittenRead = s.unwrittenRead := rfl
@[simp] theorem takeTurn_inputs : (takeTurn s).inputs = s.inputs := rfl
@[simp] theorem takeTurn_schedule : (takeTurn s).schedule = s.schedule.tail := rfl
@[simp] theorem takeTurn_returned : (takeTurn s).returned = s.returned := rfl
@[simp] theorem takeTurn_epoch : (takeTurn s).epoch = s.epoch := rfl
@[simp] theorem takeTurn_draws : (takeTurn s).draws = s.draws := rfl

end Sys2Proof.Laws
end

