-- ==== Sys2Proof/Laws/Memory.lean ====
section
/-! SUPPORT. The laws of the message buffer: read after write, and that a write keeps the canonical form
and the bounds. -/

namespace Sys2Proof.Laws

open Sys2Proof.Machine

/-- Read after write: the written index reads the byte, every other index reads as before. -/
theorem get?_set (m : Memory) (i : Nat) (b : Byte) (j : Nat) (h : Memory.wf m = true) :
    Memory.get? (Memory.set m i b) j = if j = i then some b else Memory.get? m j := by
  induction m with
  | nil => simp [Memory.set, Memory.get?, eq_comm]
  | cons c m ih =>
    have hm : Memory.wf m = true := by
      cases m with
      | nil => rfl
      | cons c' m => simp [Memory.wf] at h; exact h.2
    simp only [Memory.set]
    split
    · simp [Memory.get?, eq_comm]
    · split
      · subst_vars; simp only [Memory.get?, eq_comm]; split <;> simp_all
      · simp only [Memory.get?, ih hm]; split <;> split <;> simp_all

/-- A write leaves every other index as it is, in any form of the memory. -/
theorem get?_set_ne (m : Memory) (i : Nat) (b : Byte) (j : Nat) (h : j ≠ i) :
    Memory.get? (Memory.set m i b) j = Memory.get? m j := by
  induction m with
  | nil => simp [Memory.set, Memory.get?, h.symm]
  | cons c m ih =>
    simp only [Memory.set]
    split
    · simp [Memory.get?, h.symm]
    · split
      · subst_vars; simp [Memory.get?, h.symm]
      · simp only [Memory.get?, ih]

/-- The first index of a memory after a write. -/
theorem wf_cons_set (c : Host.Cell) (m : Memory) (i : Nat) (b : Byte)
    (h : Memory.wf (c :: m) = true) (hi : c.1 < i) : Memory.wf (c :: Memory.set m i b) = true := by
  induction m generalizing c with
  | nil => simp [Memory.set, Memory.wf, hi]
  | cons c' m ih =>
    simp only [Memory.wf, Bool.and_eq_true, decide_eq_true_eq] at h
    simp only [Memory.set]
    split
    · simp_all [Memory.wf]
    · split
      · cases m <;> simp_all [Memory.wf]
      · simp only [Memory.wf, Bool.and_eq_true, decide_eq_true_eq]
        exact ⟨h.1, ih c' h.2 (by omega)⟩

/-- A write keeps the canonical form. -/
theorem wf_set (m : Memory) (i : Nat) (b : Byte) (h : Memory.wf m = true) :
    Memory.wf (Memory.set m i b) = true := by
  cases m with
  | nil => rfl
  | cons c m =>
    simp only [Memory.set]
    split
    · simp_all [Memory.wf]
    · split
      · cases m <;> simp_all [Memory.wf]
      · exact wf_cons_set c m i b h (by omega)

/-- A write lists no index but the old ones and the written one. -/
theorem mem_set (m : Memory) (i : Nat) (b : Byte) (c : Host.Cell) (h : c ∈ Memory.set m i b) :
    c ∈ m ∨ c.1 = i := by
  induction m with
  | nil => simp [Memory.set] at h; simp [h]
  | cons c' m ih =>
    simp only [Memory.set] at h
    split at h
    · rcases List.mem_cons.1 h with rfl | h <;> simp_all
    · split at h
      · rcases List.mem_cons.1 h with rfl | h <;> simp_all
      · rcases List.mem_cons.1 h with rfl | h
        · simp
        · rcases ih h with h | h <;> simp_all

/-- What MSG reads as after a byte is written. -/
theorem msgByte_memWrite (s : State) (i : Nat) (b : Byte) (j : Nat) (h : Memory.wf s.msg = true) :
    msgByte (memWrite i b s) j = if j = i then b else msgByte s j := by
  simp only [msgByte, memWrite_msg, get?_set _ _ _ _ h, unwrittenByte, memWrite_epoch]
  split <;> simp

/-- Every other byte of MSG after a byte is written, in any form of the memory. -/
theorem msgByte_memWrite_ne (s : State) (i : Nat) (b : Byte) (j : Nat) (h : j ≠ i) :
    msgByte (memWrite i b s) j = msgByte s j := by
  simp only [msgByte, memWrite_msg, get?_set_ne _ _ _ _ h, unwrittenByte, memWrite_epoch]

/-- Every other byte of MSG after a word is written, in any form of the memory. -/
theorem msgByte_writeBE32_ne (s : State) (i : Nat) (v : Word) (j : Nat) (h : j < i ∨ i + 4 ≤ j) :
    msgByte (writeBE32 i v s) j = msgByte s j := by
  rw [writeBE32, msgByte_memWrite_ne _ _ _ _ (by omega), msgByte_memWrite_ne _ _ _ _ (by omega),
    msgByte_memWrite_ne _ _ _ _ (by omega), msgByte_memWrite_ne _ _ _ _ (by omega)]

/-- What MSG reads as after a big-endian word is written. -/
theorem msgByte_writeBE32 (s : State) (i : Nat) (v : Word) (j : Nat) (h : Memory.wf s.msg = true) :
    msgByte (writeBE32 i v s) j =
      if i ≤ j ∧ j < i + 4 then byteOf v (j - i) else msgByte s j := by
  have w (k : Nat) (b : Byte) (s : State) (h : Memory.wf s.msg = true) :
      Memory.wf (memWrite k b s).msg = true := wf_set _ _ _ h
  simp only [writeBE32]
  rw [msgByte_memWrite _ _ _ _ (w _ _ _ (w _ _ _ (w _ _ _ h))),
    msgByte_memWrite _ _ _ _ (w _ _ _ (w _ _ _ h)), msgByte_memWrite _ _ _ _ (w _ _ _ h),
    msgByte_memWrite _ _ _ _ h]
  by_cases h3 : j = i + 3
  · subst h3; simp
  by_cases h2 : j = i + 2
  · subst h2; simp
  by_cases h1 : j = i + 1
  · subst h1; simp
  by_cases h0 : j = i
  · subst h0; simp
  have : ¬ (i ≤ j ∧ j < i + 4) := by omega
  simp [h0, h1, h2, h3, this]

/-- A word write keeps the canonical form. -/
theorem wf_writeBE32 (s : State) (i : Nat) (v : Word) (h : Memory.wf s.msg = true) :
    Memory.wf (writeBE32 i v s).msg = true :=
  wf_set _ _ _ (wf_set _ _ _ (wf_set _ _ _ (wf_set _ _ _ h)))

/-- A word write lists no index but the old ones and its four. -/
theorem mem_writeBE32 (s : State) (i : Nat) (v : Word) (c : Host.Cell)
    (h : c ∈ (writeBE32 i v s).msg) : c ∈ s.msg ∨ i ≤ c.1 ∧ c.1 < i + 4 := by
  rcases mem_set _ _ _ _ h with h | h
  · rcases mem_set _ _ _ _ h with h | h
    · rcases mem_set _ _ _ _ h with h | h
      · rcases mem_set _ _ _ _ h with h | h
        · exact .inl h
        · right; omega
      · right; omega
    · right; omega
  · right; omega

/-- A word write changes MSG only. -/
theorem writeBE32_eq (s : State) (i : Nat) (v : Word) :
    writeBE32 i v s = { s with msg := (writeBE32 i v s).msg } := rfl

/-- MemRead inside the buffer reads the byte. -/
theorem memRead_inside (s : State) (i : Nat) (h : i < s.params.msgBufBytes) :
    memRead s i = .ok (msgByte s i) := by simp [memRead, h]

/-- Four readable bytes read as their big-endian word. -/
theorem readBE32_ok (rd : Nat → Except Fault Byte) (i : Nat) (b0 b1 b2 b3 : Byte)
    (h0 : rd i = .ok b0) (h1 : rd (i + 1) = .ok b1) (h2 : rd (i + 2) = .ok b2)
    (h3 : rd (i + 3) = .ok b3) : readBE32 rd i = .ok (be32 b0 b1 b2 b3) := by
  simp [readBE32, h0, h1, h2, h3]

/-- MSG_BUF_BYTES from the number of blocks. -/
theorem msgBufBytes_eq (p : Params) : p.msgBufBytes = 64 * p.msgBufBlocks.val := rfl

/-- MSG_BUF_BYTES is a multiple of 64 (00_scope.md R7). -/
theorem msgBufBytes_mod (p : Params) : p.msgBufBytes % 64 = 0 := by
  simp [Params.msgBufBytes]

/-- MSG_BUF_BYTES is at most 2^24 (R7). -/
theorem msgBufBytes_le (p : Params) : p.msgBufBytes ≤ 2 ^ 24 := by
  have := p.msgBufBlocks.isLt
  simp only [Params.msgBufBytes]; omega

/-- BE32 of the bytes of a word is the word. -/
theorem be32_byteOf (v : Word) : be32 (byteOf v 0) (byteOf v 1) (byteOf v 2) (byteOf v 3) = v := by
  apply BitVec.eq_of_getLsbD_eq
  intro i hi
  simp only [be32, byteOf, BitVec.getLsbD_append, BitVec.getLsbD_extractLsb']
  by_cases h0 : i < 8
  · simp [h0]
  by_cases h1 : i < 16
  · have : i - 8 < 8 := by omega
    simp [h0, this]; congr 1; omega
  by_cases h2 : i < 24
  · have : ¬ i - 8 < 8 := by omega
    have : i - 8 - 8 < 8 := by omega
    simp [*]; congr 1; simp; omega
  · have : ¬ i - 8 < 8 := by omega
    have : ¬ i - 8 - 8 < 8 := by omega
    have : i - 8 - 8 - 8 < 8 := by omega
    simp [*]; congr 1; simp; omega

end Sys2Proof.Laws
end

