-- ==== Sys2Proof/Laws/Ops.lean ====
section
/-! SUPPORT. What each shared operation can do, said once. -/

namespace Sys2Proof.Laws

open Sys2Proof.Machine

/-! ## next(seq), one row of 43_sequencer.md R81 a lemma -/

@[simp] theorem nextSeq_check : nextSeq ⟨.check, 0#7⟩ = ⟨.initH, 0#7⟩ := rfl
@[simp] theorem nextSeq_initH : nextSeq ⟨.initH, 0#7⟩ = ⟨.loadW, 0#7⟩ := rfl
@[simp] theorem nextSeq_initWork : nextSeq ⟨.initWork, 0#7⟩ = ⟨.roundF, 0#7⟩ := rfl
@[simp] theorem nextSeq_accum : nextSeq ⟨.accum, 0#7⟩ = ⟨.serialize, 0#7⟩ := rfl
@[simp] theorem nextSeq_serialize : nextSeq ⟨.serialize, 0#7⟩ = ⟨.idle, 0#7⟩ := rfl

theorem nextSeq_loadW (t : BitVec 7) :
    nextSeq ⟨.loadW, t⟩ = if t.toNat < 15 then ⟨.loadW, t + 1⟩ else ⟨.expandW, 16⟩ := rfl
theorem nextSeq_expandW (t : BitVec 7) :
    nextSeq ⟨.expandW, t⟩ = if t.toNat < 79 then ⟨.expandW, t + 1⟩ else ⟨.initWork, 0⟩ := rfl
theorem nextSeq_roundF (t : BitVec 7) :
    nextSeq ⟨.roundF, t⟩ = if t.toNat < 19 then ⟨.roundF, t + 1⟩ else ⟨.roundG, 20⟩ := rfl
theorem nextSeq_roundG (t : BitVec 7) :
    nextSeq ⟨.roundG, t⟩ = if t.toNat < 39 then ⟨.roundG, t + 1⟩ else ⟨.roundH, 40⟩ := rfl
theorem nextSeq_roundH (t : BitVec 7) :
    nextSeq ⟨.roundH, t⟩ = if t.toNat < 59 then ⟨.roundH, t + 1⟩ else ⟨.roundI, 60⟩ := rfl
theorem nextSeq_roundI (t : BitVec 7) :
    nextSeq ⟨.roundI, t⟩ = if t.toNat < 79 then ⟨.roundI, t + 1⟩ else ⟨.accum, 0⟩ := rfl

/-- The next index of a position that is not the last. -/
theorem toNat_succ (t : BitVec 7) (h : t.toNat < 127) : (t + 1).toNat = t.toNat + 1 := by
  rw [BitVec.toNat_add]; simp; omega

/-! ## Guards -/

/-- A position is legal if its index is in the range of its operation (10_state.md R22). -/
theorem legal_iff (p : Seq) : Machine.Seq.legal p = true ↔
    opFirst p.op ≤ p.t.toNat ∧ p.t.toNat ≤ opLast p.op := by simp [Machine.Seq.legal]

theorem legal_loadW (t : BitVec 7) (h : t.toNat ≤ 15) : Machine.Seq.legal ⟨.loadW, t⟩ = true :=
  (legal_iff _).2 ⟨Nat.zero_le _, h⟩
theorem legal_expandW (t : BitVec 7) (h : 16 ≤ t.toNat) (h' : t.toNat ≤ 79) :
    Machine.Seq.legal ⟨.expandW, t⟩ = true := (legal_iff ⟨.expandW, t⟩).2 ⟨h, h'⟩
theorem legal_roundF (t : BitVec 7) (h : t.toNat ≤ 19) : Machine.Seq.legal ⟨.roundF, t⟩ = true :=
  (legal_iff _).2 ⟨Nat.zero_le _, h⟩
theorem legal_roundG (t : BitVec 7) (h : 20 ≤ t.toNat) (h' : t.toNat ≤ 39) :
    Machine.Seq.legal ⟨.roundG, t⟩ = true := (legal_iff ⟨.roundG, t⟩).2 ⟨h, h'⟩
theorem legal_roundH (t : BitVec 7) (h : 40 ≤ t.toNat) (h' : t.toNat ≤ 59) :
    Machine.Seq.legal ⟨.roundH, t⟩ = true := (legal_iff ⟨.roundH, t⟩).2 ⟨h, h'⟩
theorem legal_roundI (t : BitVec 7) (h : 60 ≤ t.toNat) (h' : t.toNat ≤ 79) :
    Machine.Seq.legal ⟨.roundI, t⟩ = true := (legal_iff ⟨.roundI, t⟩).2 ⟨h, h'⟩

/-- A uop at a legal position has its effect. -/
theorem ifLegal_of (p : Seq) (r : Result) (h : Machine.Seq.legal p = true) : ifLegal p r = r := by
  simp [ifLegal, h]

/-- If a uop with an index completes, its position is legal and the effect completes. -/
theorem ifLegal_next {p : Seq} {r : Result} {t : State} (h : ifLegal p r = .next t) :
    Machine.Seq.legal p = true ∧ r = .next t := by
  simp only [ifLegal] at h
  split at h
  · exact ⟨‹_›, h⟩
  · cases h

/-- A well-formed transaction has its effect. -/
theorem ifSupported_of (i : Instr) (r : Result) (h : i.wf = true) : ifSupported i r = r := by
  simp [ifSupported, h]

/-- If a transaction with operands to check completes, it is well-formed and the effect completes. -/
theorem ifSupported_next {i : Instr} {r : Result} {t : State} (h : ifSupported i r = .next t) :
    i.wf = true ∧ r = .next t := by
  simp only [ifSupported] at h
  split at h
  · exact ⟨‹_›, h⟩
  · cases h
  · cases h

/-- A host write while BUSY is ignored (10_state.md R27). -/
theorem unlessBusy_busy (f : State → State) (s : State) (h : s.busy = true) : unlessBusy f s = s := by
  simp [unlessBusy, h]

/-- A host write while idle takes effect. -/
theorem unlessBusy_idle (f : State → State) (s : State) (h : s.busy = false) :
    unlessBusy f s = f s := by simp [unlessBusy, h]

theorem busy_iff (s : State) : s.busy = true ↔ s.seq.op ≠ .idle := by simp [State.busy]
theorem idle_iff (s : State) : s.busy = false ↔ s.seq.op = .idle := by simp [State.busy]

/-! ## Reads of unwritten registers -/

/-- A uop whose registers have been written leaves the record as it is (10_state.md R31). -/
theorem noteReads_of (i : Instr) (s : State) (h : readsUnwritten i s = false) : noteReads i s = s := by
  simp [noteReads, h]

/-- The record does not depend on the turns, and does not change what counts as unwritten. -/
@[simp] theorem readsUnwritten_takeTurn (i : Instr) (s : State) :
    readsUnwritten i (takeTurn s) = readsUnwritten i s := rfl
@[simp] theorem readsUnwritten_noteReads (i j : Instr) (s : State) :
    readsUnwritten i (noteReads j s) = readsUnwritten i s := rfl

/-! ## CHECK -/

/-- When CHECK passes, and the NB it sets (43_sequencer.md R78). -/
theorem checkLength_ok (s : State) (n : Nat) : checkLength s = .ok n ↔
    s.lLat.toNat ≤ s.params.msgBufBytes ∧
      ((s.modeLat = .raw ∧ s.lLat.toNat < 2 ^ 61 ∧ n = (s.lLat.toNat + 72) / 64) ∨
        (s.modeLat = .prepadded ∧ s.lLat.toNat % 64 = 0 ∧ s.lLat.toNat ≠ 0
          ∧ n = s.lLat.toNat / 64)) := by
  have eqc (a : Nat) : (Except.ok a : Except ErrorKind Nat) = .ok n ↔ n = a :=
    ⟨fun h => (Except.ok.inj h).symm, fun h => h ▸ rfl⟩
  have ne (e : ErrorKind) : ¬ (Except.error e : Except ErrorKind Nat) = .ok n := nofun
  simp only [checkLength]
  cases s.modeLat with
  | raw =>
    dsimp only
    split
    · simp only [ne, false_iff, reduceCtorEq, false_and, or_false, true_and]; omega
    · split
      · simp only [ne, false_iff]; omega
      · simp only [eqc, reduceCtorEq, false_and, or_false, true_and]; omega
  | prepadded =>
    dsimp only
    split
    · simp only [ne, false_iff, reduceCtorEq, false_and, false_or, true_and]; omega
    · split
      · simp only [ne, false_iff]; omega
      · simp only [eqc, reduceCtorEq, false_and, false_or, true_and]; omega

/-- When CHECK raises LENGTH_OVERFLOW. -/
theorem checkLength_overflow (s : State) (hm : s.modeLat = .raw) (h : 2 ^ 61 ≤ s.lLat.toNat) :
    checkLength s = .error .lengthOverflow := by
  simp only [checkLength, hm, if_pos h]

/-- When CHECK raises PRECONDITION. -/
theorem checkLength_precondition (s : State) (hm : s.modeLat = .prepadded)
    (h : s.lLat.toNat % 64 ≠ 0 ∨ s.lLat.toNat = 0) : checkLength s = .error .precondition := by
  simp only [checkLength, hm, if_pos h]

/-- When CHECK raises CAPACITY, in RAW and in PREPADDED mode. -/
theorem checkLength_capacity_raw (s : State) (hm : s.modeLat = .raw) (h : s.lLat.toNat < 2 ^ 61)
    (h' : s.params.msgBufBytes < s.lLat.toNat) : checkLength s = .error .capacity := by
  simp only [checkLength, hm, if_neg (Nat.not_le.2 h), if_pos h']

theorem checkLength_capacity_prepadded (s : State) (hm : s.modeLat = .prepadded)
    (h : s.lLat.toNat % 64 = 0) (h0 : s.lLat.toNat ≠ 0) (h' : s.params.msgBufBytes < s.lLat.toNat) :
    checkLength s = .error .capacity := by
  simp only [checkLength, hm, if_neg (not_or.2 ⟨not_not.2 h, h0⟩), if_pos h']

/-- CHECK completes with what its tests say. -/
theorem exec_check (s : State) : execCheck s =
    match checkLength s with
    | .ok n => .next (setSeq ⟨.initH, 0⟩ (writeNB n s))
    | .error e => .next (raiseError e s) := rfl

/-- CHECK reads the latches and the capacity only. -/
theorem checkLength_congr {s t : State} (hl : t.lLat = s.lLat) (hm : t.modeLat = s.modeLat)
    (hp : t.params = s.params) : checkLength t = checkLength s := by
  simp [checkLength, hl, hm, hp]

/-- A computation that passes CHECK has at least one block (40_padder.md R60). -/
theorem nb_pos {s : State} {n : Nat} (h : checkLength s = .ok n) : 0 < n := by
  rw [checkLength_ok] at h
  rcases h with ⟨-, ⟨-, -, h⟩ | ⟨-, h, h', h''⟩⟩ <;> omega

/-! ## The datapath -/

/-- ROTL is the rotate of bit vectors, by 5 and by 30 (42_alu_rounds.md R64). -/
@[simp] theorem rotl_five (v : Word) : rotl v .five = v.rotateLeft 5 := by
  simp [rotl, rotBits, BitVec.rotateLeft_def]
@[simp] theorem rotl_thirty (v : Word) : rotl v .thirty = v.rotateLeft 30 := by
  simp [rotl, rotBits, BitVec.rotateLeft_def]

/-- One round of each quartile, written out (R71 to R74). -/
theorem roundStep_f (w : Word) (r : Work) : roundStep .f w r =
    ⟨r.a.rotateLeft 5 + ((r.b &&& r.c) ||| (~~~r.b &&& r.d)) + r.e + 0x5A827999 + w, r.a,
      r.b.rotateLeft 30, r.c, r.d⟩ := by simp [roundStep, add32, roundFn, muxF, kRom]
theorem roundStep_g (w : Word) (r : Work) : roundStep .g w r =
    ⟨r.a.rotateLeft 5 + (r.b ^^^ r.c ^^^ r.d) + r.e + 0x6ED9EBA1 + w, r.a,
      r.b.rotateLeft 30, r.c, r.d⟩ := by simp [roundStep, add32, roundFn, muxG, kRom]
theorem roundStep_h (w : Word) (r : Work) : roundStep .h w r =
    ⟨r.a.rotateLeft 5 + ((r.b &&& r.c) ||| (r.b &&& r.d) ||| (r.c &&& r.d)) + r.e + 0x8F1BBCDC + w, r.a,
      r.b.rotateLeft 30, r.c, r.d⟩ := by simp [roundStep, add32, roundFn, muxH, kRom]
theorem roundStep_i (w : Word) (r : Work) : roundStep .i w r =
    ⟨r.a.rotateLeft 5 + (r.b ^^^ r.c ^^^ r.d) + r.e + 0xCA62C1D6 + w, r.a,
      r.b.rotateLeft 30, r.c, r.d⟩ := by simp [roundStep, add32, roundFn, muxI, kRom]

/-- A ROUND uop at a legal position completes. -/
theorem execRound_of (q : Quartile) (p : Seq) (s : State) (h : Machine.Seq.legal p = true) :
    execRound q p s = .next (advance p (writeWork (roundStep q (readW s.w p.t.toNat) s.work) s)) :=
  ifLegal_of p _ h

/-! ## The schedule buffer -/

/-- A word of W after one is written. -/
theorem readW_writeW (s : State) (t : Nat) (v : Word) (j : Nat) (h : j < 80) :
    readW (writeW t v s).w j = if t = j then v else readW s.w j := by
  simp only [readW, writeW_w, Vector.getElem?_setIfInBounds]
  split <;> simp_all

/-- A word of W that changes is the word written. -/
theorem eq_of_setIfInBounds_ne (w : Vector Word 80) (m n : Nat) (v : Word)
    (h : (w.setIfInBounds m v)[n]? ≠ w[n]?) : m = n := by
  by_contra hne
  exact h (by rw [Vector.getElem?_setIfInBounds, if_neg hne])

/-! ## ACCUM -/

/-- The three ways on after ACCUM (R81). -/
theorem afterAccum_cases (s : State) :
    (s.k + 1 < s.nb ∧ afterAccum s = setSeq ⟨.loadW, 0⟩ (writeK (s.k + 1) s)) ∨
    (s.k + 1 = s.nb ∧ afterAccum s = setSeq ⟨.serialize, 0⟩ s) ∨
    (s.nb < s.k + 1 ∧ afterAccum s =
      setSeq (Config.freeNext s.draws).1 (writeK (Config.freeNext s.draws).2 (takeDraw s))) := by
  rcases Nat.lt_trichotomy (s.k + 1) s.nb with h | h | h
  · exact .inl ⟨h, by simp [afterAccum, h]⟩
  · exact .inr (.inl ⟨h, by simp [afterAccum, h, advance]⟩)
  · exact .inr (.inr ⟨h, by
      simp [afterAccum, show ¬ s.k + 1 < s.nb by omega, show ¬ s.k + 1 = s.nb by omega]⟩)

end Sys2Proof.Laws
end

