-- ==== Sys2Proof/Laws/Step.lean ====
section
/-! SUPPORT. What a step can do, said once: the effects of the engine's turn and of the outside world's turn
as two inductive relations, and the inversion lemmas that lead to them. -/

namespace Sys2Proof.Laws

open Sys2Proof.Machine

/-- The uop that a position names (10_state.md R22). -/
def uopOf (p : Seq) : Instr :=
  match p.op with
  | .idle => .idle
  | .check => .check
  | .initH => .initH
  | .loadW => .loadW p.t
  | .expandW => .expandW p.t
  | .initWork => .initWork
  | .roundF => .roundF p.t
  | .roundG => .roundG p.t
  | .roundH => .roundH p.t
  | .roundI => .roundI p.t
  | .accum => .accum
  | .serialize => .serialize

/-- The positions are exactly the valid words (30_encoding.md R49): a position's word decodes to its uop if
it is legal, and to nothing otherwise. -/
theorem decodeUop_word (p : Seq) :
    decodeUop p.word = if Machine.Seq.legal p then some (uopOf p) else none := by
  simp only [legal_iff]
  obtain ⟨op, t⟩ := p
  cases op <;> simp [decodeUop, Seq.word, Op.number, validIf, opFirst, opLast, uopOf] <;> rfl

/-- The instruction is a micro-operation (Format U). -/
def isUop : Instr → Bool
  | .idle | .check | .initH | .loadW _ | .expandW _ | .initWork | .roundF _ | .roundG _ | .roundH _
  | .roundI _ | .accum | .serialize => true
  | _ => false

/-- A uop word never decodes to a host transaction. -/
theorem decodeUop_isUop {u : BitVec 16} {i : Instr} (h : decodeUop u = some i) : isUop i = true := by
  simp only [decodeUop] at h
  split at h
  · cases h
  · split at h <;> first | (simp only [validIf] at h; split at h <;> cases h; rfl) | cases h

theorem byWr_not_uop {d : BitVec 32} {rd wr i : Instr} (hr : isUop rd = false)
    (hw : isUop wr = false) (h : byWr d rd wr = some i) : isUop i = false := by
  simp only [byWr] at h
  split at h <;> cases h <;> assumption

theorem decodeReg32_not_uop {d : BitVec 32} {v : Word} {i : Instr} (h : decodeReg32 d v = some i) :
    isUop i = false := by
  simp only [decodeReg32] at h
  split at h <;> exact byWr_not_uop rfl rfl h

/-- A host descriptor never decodes to a micro-operation. -/
theorem decodeHost_not_uop {x : Txn} {i : Instr} (h : decodeHost x = some i) : isUop i = false := by
  simp only [decodeHost] at h
  split at h
  · cases h
  split at h
  · cases h
  split at h
  · cases h
  split at h
  · split at h <;> exact byWr_not_uop rfl rfl h
  · split at h
    · exact decodeReg32_not_uop h
    · exact byWr_not_uop rfl rfl h

/-- What the engine's turn can do to a state, one case per row of 43_sequencer.md R81. -/
inductive EngineStep (s : State) : State → Prop where
  | idle (hp : s.seq = ⟨.idle, 0⟩) : EngineStep s s
  | checkPass (n : Nat) (hp : s.seq = ⟨.check, 0⟩) (hn : checkLength s = .ok n) :
      EngineStep s (setSeq ⟨.initH, 0⟩ (writeNB n s))
  | checkFail (e : ErrorKind) (hp : s.seq = ⟨.check, 0⟩) (he : checkLength s = .error e) :
      EngineStep s (raiseError e s)
  | initH (hp : s.seq = ⟨.initH, 0⟩) : EngineStep s (setSeq ⟨.loadW, 0⟩ (writeK 0 (writeH iv s)))
  | loadW (i : BitVec 7) (v : Word) (hp : s.seq = ⟨.loadW, i⟩) (hi : i.toNat ≤ 15) (hk : s.k < s.nb)
      (hv : paddedWord s i.toNat = .ok v) : EngineStep s (advance ⟨.loadW, i⟩ (writeW i.toNat v s))
  | loadWFree (i : BitVec 7) (hp : s.seq = ⟨.loadW, i⟩) (hi : i.toNat ≤ 15) (hk : s.nb ≤ s.k) :
      EngineStep s
        (advance ⟨.loadW, i⟩ (writeW i.toNat (Config.freeWord s.draws) (takeDraw s)))
  | expandW (i : BitVec 7) (hp : s.seq = ⟨.expandW, i⟩) (h1 : 16 ≤ i.toNat) (h2 : i.toNat ≤ 79) :
      EngineStep s (advance ⟨.expandW, i⟩ (writeW i.toNat (expandWord s.w i.toNat) s))
  | initWork (hp : s.seq = ⟨.initWork, 0⟩) :
      EngineStep s (setSeq ⟨.roundF, 0⟩ (writeWork (workOfHash s.h) s))
  | round (q : Quartile) (hq : q = quartileOf s.seq.t.toNat)
      (hop : s.seq.op = .roundF ∨ s.seq.op = .roundG ∨ s.seq.op = .roundH ∨ s.seq.op = .roundI)
      (hl : Machine.Seq.legal s.seq = true) :
      EngineStep s
        (advance s.seq (writeWork (roundStep q (readW s.w s.seq.t.toNat) s.work) s))
  | accum (hp : s.seq = ⟨.accum, 0⟩) :
      EngineStep s (afterAccum (writeH (feedForward s.h s.work) s))
  | serialize (hp : s.seq = ⟨.serialize, 0⟩) :
      EngineStep s (setSeq ⟨.idle, 0⟩ (setDone (writeDigest s.h s)))

/-- An index that is at most 0 is 0. -/
theorem index_zero {t : BitVec 7} (h : t.toNat ≤ 0) : t = 0 :=
  BitVec.eq_of_toNat_eq (by simpa using h)

/-- The uop of a legal position, if it completes, is one of these steps. -/
theorem exec_uopOf_next {s t : State} (hl : Machine.Seq.legal s.seq = true)
    (h : exec (uopOf s.seq) s = .next t) : EngineStep s t := by
  have hl' := (legal_iff _).1 hl
  have hs : s.seq = ⟨s.seq.op, s.seq.t⟩ := rfl
  rcases hop : s.seq.op with _ | _ | _ | _ | _ | _ | _ | _ | _ | _ | _ | _ <;>
    simp only [hop, opFirst, opLast] at hl' <;>
    simp only [uopOf, hop, exec] at h <;> rw [hop] at hs
  · rw [index_zero hl'.2] at hs
    cases h; exact .idle hs
  · rw [index_zero hl'.2] at hs
    simp only [execCheck] at h
    split at h <;> cases h
    · exact .checkPass _ hs ‹_›
    · exact .checkFail _ hs ‹_›
  · rw [index_zero hl'.2] at hs
    cases h; exact .initH hs
  · obtain ⟨-, h⟩ := ifLegal_next h
    split at h
    · split at h <;> cases h
      exact .loadW _ _ hs hl'.2 ‹_› ‹_›
    · cases h; exact .loadWFree _ hs hl'.2 (by omega)
  · obtain ⟨-, h⟩ := ifLegal_next h
    cases h; exact .expandW _ hs hl'.1 hl'.2
  · rw [index_zero hl'.2] at hs
    cases h; exact .initWork hs
  · obtain ⟨-, h⟩ := ifLegal_next h
    cases h; rw [← hs]
    exact .round _ (by simp only [quartileOf]; split_ifs <;> first | rfl | omega) (by simp [hop]) hl
  · obtain ⟨-, h⟩ := ifLegal_next h
    cases h; rw [← hs]
    exact .round _ (by simp only [quartileOf]; split_ifs <;> first | rfl | omega) (by simp [hop]) hl
  · obtain ⟨-, h⟩ := ifLegal_next h
    cases h; rw [← hs]
    exact .round _ (by simp only [quartileOf]; split_ifs <;> first | rfl | omega) (by simp [hop]) hl
  · obtain ⟨-, h⟩ := ifLegal_next h
    cases h; rw [← hs]
    exact .round _ (by simp only [quartileOf]; split_ifs <;> first | rfl | omega) (by simp [hop]) hl
  · rw [index_zero hl'.2] at hs
    cases h; exact .accum hs
  · rw [index_zero hl'.2] at hs
    cases h; exact .serialize hs

/-- The engine's turn, if it completes, is one of these steps after the record of the uop's reads. -/
theorem engineTurn_next {s t : State} (h : engineTurn s = .next t) :
    EngineStep (noteReads (uopOf s.seq) s) t := by
  simp only [engineTurn, runUop, decodeUop_word] at h
  by_cases hl : Machine.Seq.legal s.seq = true
  · simp only [hl, if_true] at h
    exact exec_uopOf_next hl h
  · simp [hl] at h

/-- What a host transaction `i` can do to a state. -/
inductive HostStep (i : Instr) (s : State) : State → Prop where
  | unchanged : HostStep i s s
  | read (v : BusValue) : HostStep i s (returnValue v s)
  | mode (v : Word) (hi : i = .wrCtrl v) (h0 : v.getLsbD 0 = false) (hb : s.busy = false) :
      HostStep i s { s with ctrlMode := Mode.ofBit (v.getLsbD 1) }
  | start (v : Word) (hi : i = .wrCtrl v) (h0 : v.getLsbD 0 = true) (hb : s.busy = false) :
      HostStep i s (startComputation (Mode.ofBit (v.getLsbD 1))
        { s with ctrlMode := Mode.ofBit (v.getLsbD 1) })
  | lenLo (v : Word) (hi : i = .wrLenLo v) (hb : s.busy = false) : HostStep i s { s with lenLo := v }
  | lenHi (v : Word) (hi : i = .wrLenHi v) (hb : s.busy = false) : HostStep i s { s with lenHi := v }
  | msg8 (j : BitVec 24) (b : Byte) (hi : i = .wrMsg8 j b) (hb : s.busy = false)
      (hj : j.toNat < s.params.msgBufBytes) : HostStep i s (memWrite j.toNat b s)
  | msg32 (j : BitVec 24) (v : Word) (hi : i = .wrMsg32 j v) (hb : s.busy = false)
      (h4 : j.toNat % 4 = 0) (hj : j.toNat < s.params.msgBufBytes) :
      HostStep i s (writeBE32 j.toNat v s)

/-- A write that is ignored while BUSY is a step if its effect when idle is one. -/
theorem hostStep_unlessBusy {i : Instr} {f : State → State} {s : State}
    (h : s.busy = false → HostStep i s (f s)) : HostStep i s (unlessBusy f s) := by
  cases hb : s.busy with
  | true => rw [unlessBusy_busy _ _ hb]; exact .unchanged
  | false => rw [unlessBusy_idle _ _ hb]; exact h hb

/-- Every host transaction that completes is one of these steps. -/
theorem exec_host_next {x : Txn} {i : Instr} {s t : State} (hd : decodeHost x = some i)
    (h : exec i s = .next t) : HostStep i s t := by
  have hu := decodeHost_not_uop hd
  cases i <;> cases hu
  case rdMsg8 i =>
    simp only [exec, execRdMsg8] at h
    split at h
    · split at h <;> cases h; exact .read _
    · cases h; exact .read _
  case rdMsg32 i =>
    obtain ⟨-, h⟩ := ifSupported_next h
    split at h
    · split at h <;> cases h; exact .read _
    · cases h; exact .read _
  case rdRsvd8 | rdRsvd32 => obtain ⟨-, h⟩ := ifSupported_next h; cases h; exact .read _
  case wrRsvd8 | wrRsvd32 => obtain ⟨-, h⟩ := ifSupported_next h; cases h; exact .unchanged
  case wrMsg32 i v =>
    obtain ⟨hw, h⟩ := ifSupported_next h
    cases h
    refine hostStep_unlessBusy fun hb => ?_
    simp only [writeMsg32]
    split
    · exact .msg32 _ _ rfl hb (by simpa [Instr.wf] using hw) ‹_›
    · exact .unchanged
  case wrMsg8 i b =>
    cases h
    refine hostStep_unlessBusy fun hb => ?_
    simp only [writeMsg8]
    split
    · exact .msg8 _ _ rfl hb ‹_›
    · exact .unchanged
  case wrCtrl v =>
    cases h
    refine hostStep_unlessBusy fun hb => ?_
    simp only [writeCtrl]
    split
    · exact .start _ rfl ‹_› hb
    · exact .mode _ rfl (Bool.eq_false_iff.2 ‹_›) hb
  case wrLenLo v => cases h; exact hostStep_unlessBusy fun hb => .lenLo _ rfl hb
  case wrLenHi v => cases h; exact hostStep_unlessBusy fun hb => .lenHi _ rfl hb
  case wrStatus | wrDigest0 | wrDigest1 | wrDigest2 | wrDigest3 | wrDigest4 => cases h; exact .unchanged
  case rdCtrl | rdStatus | rdLenLo | rdLenHi | rdDigest0 | rdDigest1 | rdDigest2 | rdDigest3 | rdDigest4 =>
    cases h; exact .read _

/-- A step that completes is the engine's, the host's with its oldest transaction, the reset input, or a turn
that passes; what came before it is the turn taken off the schedule and the input taken off the queue. -/
theorem step_next {s t : State} (h : step s = .next t) :
    (nextAgent s = .engine ∧ EngineStep (noteReads (uopOf s.seq) (takeTurn s)) t) ∨
    (nextAgent s = .host ∧ s.inputs = [] ∧ t = takeTurn s) ∨
    (nextAgent s = .host ∧ ∃ x i rest, s.inputs = .txn x :: rest ∧ decodeHost x = some i ∧
      HostStep i { takeTurn s with inputs := rest } t) ∨
    (nextAgent s = .host ∧ ∃ rest, s.inputs = .reset :: rest ∧
      t = assertReset { takeTurn s with inputs := rest }) := by
  simp only [step] at h
  split at h
  · exact .inl ⟨‹_›, engineTurn_next h⟩
  · simp only [hostTurn, takeTurn_inputs] at h
    split at h
    · cases h; exact .inr (.inl ⟨‹_›, ‹_›, rfl⟩)
    · rename_i x rest hx
      simp only [runTxn] at h
      split at h
      · exact .inr (.inr (.inl ⟨‹_›, x, _, rest, hx, ‹_›, exec_host_next ‹_› h⟩))
      · cases h
    · cases h; exact .inr (.inr (.inr ⟨‹_›, _, ‹_›, rfl⟩))

/-- The engine's turn leaves the inputs, the schedule and the record of unwritten reads as they are. -/
theorem engineStep_inputs {s t : State} (h : EngineStep s t) :
    t.inputs = s.inputs ∧ t.schedule = s.schedule ∧ t.unwrittenRead = s.unwrittenRead := by
  cases h with
  | accum hp =>
    rcases afterAccum_cases (writeH (feedForward s.h s.work) s) with ⟨-, e⟩ | ⟨-, e⟩ | ⟨-, e⟩ <;>
      simp [e]
  | _ => simp

/-- A run of one step more, from a state whose step is known. -/
theorem run_succ {s t : State} (n : Nat) (h : step s = .next t) :
    Host.Core.run core (n + 1) s = Host.Core.run core n t := by
  have e : core.step s = .next t := h
  simp only [Host.Core.run, e]

end Sys2Proof.Laws
end

