-- ==== Sys2Proof/Laws/Invariant.lean ====
section
/-! SUPPORT. How the parts of the invariant follow the state. -/

namespace Sys2Proof.Laws

open Sys2Proof.Machine Sys2Proof.Safety

/-- The order of writes depends on the marks and the position only. -/
theorem ordered_congr {s t : State} (h : Ordered s) (hw : t.written = s.written)
    (hs : t.seq = s.seq) : Ordered t := by
  have hb : t.busy = s.busy := by simp [State.busy, hs]
  constructor
  · rw [hb, hw]; exact h.latches
  · rw [hs, hw]; exact h.nb
  · rw [hs, hw]; exact h.h
  · rw [hs]; simp only [wWritten, hw]; exact h.w
  · rw [hs, hw]; exact h.work

/-- At IDLE no register has to be written. -/
theorem ordered_idle {s : State} (h : s.seq.op = .idle) : Ordered s := by
  constructor <;> simp [State.busy, h, pastCheck, pastInit, inRounds, wordsDone]

/-- The marks of W after a word is written. -/
theorem wWritten_writeW (s : State) (i : Nat) (v : Word) (j : Nat) (hj : j < 80) :
    wWritten (writeW i v s) j = if i = j then true else wWritten s j := by
  simp only [wWritten, writeW_written, Vector.getElem?_setIfInBounds]
  split <;> simp_all

/-- The invariant does not speak of the schedule, the inputs or the values returned. -/
theorem inv_congr {s : State} (q : List Agent) (l : List Input) (r : List BusValue) (h : Inv s) :
    Inv { s with schedule := q, inputs := l, returned := r } :=
  ⟨h.seqLegal, h.busyClear, h.notBoth, h.errIff, h.errCodeRange, h.digestClear, h.latched, h.checked,
    h.kBound, h.msgCanonical, h.msgInside, ordered_congr h.ordered rfl rfl, h.noUnwrittenRead⟩

/-- What has been computed does not depend on them either. -/
theorem computed_congr {s : State} (q : List Agent) (l : List Input) (r : List BusValue)
    (h : Computed s) : Computed { s with schedule := q, inputs := l, returned := r } :=
  ⟨h.hash, h.words, h.rounds⟩

/-- At IDLE nothing has to be computed. -/
theorem computed_idle {s : State} (h : s.seq.op = .idle) : Computed s := by
  constructor <;> simp [h, pastInit, wordsDone, inRounds]

/-- The padded message depends on the message, its epoch and the latches only. -/
theorem paddedMessage_congr {s t : State} (hm : t.msg = s.msg) (he : t.epoch = s.epoch)
    (hl : t.lLat = s.lLat) (hd : t.modeLat = s.modeLat) : paddedMessage t = paddedMessage s := by
  have (n : Nat) : msgPrefix t n = msgPrefix s n := by
    simp [msgPrefix, msgByte, unwrittenByte, hm, he]
  simp [paddedMessage, this, hl, hd]

/-- In a state of the invariant the position of the engine is that of a uop that decodes. -/
theorem decodeUop_of_inv {s : State} (h : Inv s) : decodeUop s.seq.word = some (uopOf s.seq) := by
  rw [decodeUop_word, h.seqLegal]; rfl

/-- LOAD_W writes one word more of its block. -/
theorem wordsDone_loadW (t : BitVec 7) (h : t.toNat ≤ 15) :
    wordsDone (nextSeq ⟨.loadW, t⟩) = t.toNat + 1 := by
  rw [nextSeq_loadW]; split
  · exact toNat_succ _ (by omega)
  · simp [wordsDone]; omega

/-- EXPAND_W writes one word more of its block. -/
theorem wordsDone_expandW (t : BitVec 7) (h : t.toNat ≤ 79) :
    wordsDone (nextSeq ⟨.expandW, t⟩) = t.toNat + 1 := by
  rw [nextSeq_expandW]; split
  · exact toNat_succ _ (by omega)
  · simp [wordsDone]; omega

/-- The words of the schedule that stand in W, after one more is written. -/
theorem words_writeW {s : State} {i : Nat} {v : Word} (b : List Byte) (hi : i < 80)
    (hw : ∀ t, t < i → readW s.w t = readW (sched b) t) (hv : v = readW (sched b) i) (j : Nat)
    (hj : j < i + 1) : readW (writeW i v s).w j = readW (sched b) j := by
  rw [readW_writeW _ _ _ _ (by omega)]
  split
  · subst_vars; rfl
  · exact hw j (by omega)

/-- While BUSY a host transaction only returns a value, if it does anything (10_state.md R27). -/
theorem hostStep_busy {i : Instr} {s t : State} (hb : s.busy = true) (h : HostStep i s t) :
    ∃ r, t = { s with returned := r } := by
  cases h with
  | unchanged => exact ⟨s.returned, rfl⟩
  | read v => exact ⟨_, rfl⟩
  | mode | start | lenLo | lenHi | msg8 | msg32 => simp_all

end Sys2Proof.Laws
end

