-- ==== Sys2Proof/Laws/PerInstr.lean ====
section
/-! SUPPORT. Facts said once per instruction. `ZFieldClear`: the encoded word's Z field is 0 (30_encoding.md
R46, R50). -/

namespace Sys2Proof.Laws.ZFieldClear

/-- The Z field of the encoded instruction is 0: bits 11:7 of a uop word, bits 28:25 of a descriptor. -/
def Statement (i : Instr) : Prop :=
  match encode i with
  | .uop u => uopZ u = 0
  | .host x => descZ x.desc = 0

theorem idle : Statement (.idle) := uopZ_uopWord _ _
theorem check : Statement (.check) := uopZ_uopWord _ _
theorem initH : Statement (.initH) := uopZ_uopWord _ _
theorem loadW (t : BitVec 7) : Statement (.loadW t) := uopZ_uopWord _ _
theorem expandW (t : BitVec 7) : Statement (.expandW t) := uopZ_uopWord _ _
theorem initWork : Statement (.initWork) := uopZ_uopWord _ _
theorem roundF (t : BitVec 7) : Statement (.roundF t) := uopZ_uopWord _ _
theorem roundG (t : BitVec 7) : Statement (.roundG t) := uopZ_uopWord _ _
theorem roundH (t : BitVec 7) : Statement (.roundH t) := uopZ_uopWord _ _
theorem roundI (t : BitVec 7) : Statement (.roundI t) := uopZ_uopWord _ _
theorem accum : Statement (.accum) := uopZ_uopWord _ _
theorem serialize : Statement (.serialize) := uopZ_uopWord _ _
theorem rdCtrl : Statement (.rdCtrl) := descZ_descriptor _ _ _
theorem wrCtrl (v : Word) : Statement (.wrCtrl v) := descZ_descriptor _ _ _
theorem rdStatus : Statement (.rdStatus) := descZ_descriptor _ _ _
theorem wrStatus (v : Word) : Statement (.wrStatus v) := descZ_descriptor _ _ _
theorem rdLenLo : Statement (.rdLenLo) := descZ_descriptor _ _ _
theorem wrLenLo (v : Word) : Statement (.wrLenLo v) := descZ_descriptor _ _ _
theorem rdLenHi : Statement (.rdLenHi) := descZ_descriptor _ _ _
theorem wrLenHi (v : Word) : Statement (.wrLenHi v) := descZ_descriptor _ _ _
theorem rdDigest0 : Statement (.rdDigest0) := descZ_descriptor _ _ _
theorem rdDigest1 : Statement (.rdDigest1) := descZ_descriptor _ _ _
theorem rdDigest2 : Statement (.rdDigest2) := descZ_descriptor _ _ _
theorem rdDigest3 : Statement (.rdDigest3) := descZ_descriptor _ _ _
theorem rdDigest4 : Statement (.rdDigest4) := descZ_descriptor _ _ _
theorem wrDigest0 (v : Word) : Statement (.wrDigest0 v) := descZ_descriptor _ _ _
theorem wrDigest1 (v : Word) : Statement (.wrDigest1 v) := descZ_descriptor _ _ _
theorem wrDigest2 (v : Word) : Statement (.wrDigest2 v) := descZ_descriptor _ _ _
theorem wrDigest3 (v : Word) : Statement (.wrDigest3 v) := descZ_descriptor _ _ _
theorem wrDigest4 (v : Word) : Statement (.wrDigest4 v) := descZ_descriptor _ _ _
theorem rdMsg8 (i : BitVec 24) : Statement (.rdMsg8 i) := descZ_descriptor _ _ _
theorem wrMsg8 (i : BitVec 24) (b : Byte) : Statement (.wrMsg8 i b) := descZ_descriptor _ _ _
theorem rdMsg32 (i : BitVec 24) : Statement (.rdMsg32 i) := descZ_descriptor _ _ _
theorem wrMsg32 (i : BitVec 24) (v : Word) : Statement (.wrMsg32 i v) := descZ_descriptor _ _ _
theorem rdRsvd8 (off : BitVec 24) : Statement (.rdRsvd8 off) := descZ_descriptor _ _ _
theorem wrRsvd8 (off : BitVec 24) (b : Byte) : Statement (.wrRsvd8 off b) := descZ_descriptor _ _ _
theorem rdRsvd32 (off : BitVec 24) : Statement (.rdRsvd32 off) := descZ_descriptor _ _ _
theorem wrRsvd32 (off : BitVec 24) (v : Word) : Statement (.wrRsvd32 off v) := descZ_descriptor _ _ _

end Sys2Proof.Laws.ZFieldClear
end

