-- ==== Sys2Proof/Laws/Sha0.lean ====
section
/-! SUPPORT. The laws of the functional contracts: the words of a schedule, the bytes of a padded message. -/

namespace Sys2Proof.Laws
open Sys2Proof.Machine

/-- A word of a schedule buffer after one is written. -/
theorem readW_set (w : Vector Word 80) (t : Nat) (v : Word) (j : Nat) (h : j < 80) :
    readW (w.setIfInBounds t v) j = if t = j then v else readW w j := by
  simp only [readW, Vector.getElem?_setIfInBounds]
  split <;> simp_all

/-- Once formed, a word of the schedule stays. -/
theorem readW_schedUpTo (b : List Byte) (n j : Nat) (hj : j < n) (hn : n ≤ 80) :
    readW (schedUpTo b n) j = schedWord b (schedUpTo b j) j := by
  induction n with
  | zero => omega
  | succ n ih =>
    rw [schedUpTo, readW_set _ _ _ _ (by omega)]
    split
    · subst_vars; rfl
    · exact ih (by omega) (by omega)

/-- Word j of the schedule, from the words before it (41_schedule.md R63). -/
theorem readW_sched (b : List Byte) (j : Nat) (h : j < 80) :
    readW (sched b) j = schedWord b (schedUpTo b j) j := readW_schedUpTo b 80 j h (by omega)

/-- The first 16 words of a block's schedule are its big-endian words (R63). -/
theorem readW_sched_load (b : List Byte) (t : Nat) (h : t < 16) :
    readW (sched b) t = be32 (byteAt b (4 * t)) (byteAt b (4 * t + 1)) (byteAt b (4 * t + 2))
      (byteAt b (4 * t + 3)) := by
  rw [readW_sched b t (by omega)]; simp [schedWord, h]

/-- The other words are the XOR of four earlier ones (R63). -/
theorem readW_sched_expand (b : List Byte) (t : Nat) (h : 16 ≤ t) (h' : t < 80) :
    readW (sched b) t = readW (sched b) (t - 3) ^^^ readW (sched b) (t - 8)
      ^^^ readW (sched b) (t - 14) ^^^ readW (sched b) (t - 16) := by
  have e (j : Nat) (hj : j < t) : readW (schedUpTo b t) j = readW (sched b) j := by
    rw [readW_schedUpTo b t j hj (by omega), readW_sched b j (by omega)]
  rw [readW_sched b t h']
  simp only [schedWord, show ¬ t < 16 by omega, if_false]
  rw [e _ (by omega), e _ (by omega), e _ (by omega), e _ (by omega)]

/-- The rounds read only the schedule words below their number. -/
theorem roundsUpTo_congr (w w' : Vector Word 80) (r : Work) (n : Nat)
    (h : ∀ j, j < n → readW w j = readW w' j) : roundsUpTo w r n = roundsUpTo w' r n := by
  induction n with
  | zero => rfl
  | succ n ih =>
    simp only [roundsUpTo, h n (by omega), ih fun j hj => h j (by omega)]

/-- The loop of pad appends the fewest zero bytes that leave 56 bytes in the last block (40_padder.md R57). -/
theorem padZeros_eq (n : Nat) (p : List Byte) (h : (56 + 64 - p.length % 64) % 64 ≤ n) :
    padZeros n p = p ++ List.replicate ((56 + 64 - p.length % 64) % 64) 0x00 := by
  induction n generalizing p with
  | zero => simp [padZeros, show (56 + 64 - p.length % 64) % 64 = 0 by omega]
  | succ n ih =>
    simp only [padZeros]
    split
    · have e : (56 + 64 - p.length % 64) % 64 = (56 + 64 - (p.length + 1) % 64) % 64 + 1 := by omega
      rw [ih _ (by simp only [List.length_append, List.length_singleton]; omega), e]
      simp [List.replicate_succ, List.append_assoc]
    · simp [show (56 + 64 - p.length % 64) % 64 = 0 by omega]

/-- What the loop of pad leaves is eight bytes short of whole blocks. -/
theorem length_padZeros (m : List Byte) :
    (padZeros 64 (m ++ [0x80])).length = 64 * ((m.length + 72) / 64) - 8 := by
  rw [padZeros_eq _ _ (by omega)]; simp only [List.length_append, List.length_replicate, List.length_singleton]; omega

/-- Every byte of the padded message (R56, R59). -/
theorem getD_pad (m : List Byte) (i : Nat) :
    (pad m).getD i 0 = if i < m.length then m.getD i 0 else if i = m.length then 0x80
      else if i < 64 * ((m.length + 72) / 64) - 8 then 0
      else if i < 64 * ((m.length + 72) / 64) then lengthByte m.length (i - (64 * ((m.length + 72) / 64) - 8)) else 0 := by
  have hl := length_padZeros m
  have e := padZeros_eq 64 (m ++ [0x80]) (by omega)
  simp only [pad, List.getD_eq_getElem?_getD]
  by_cases h : i < 64 * ((m.length + 72) / 64) - 8
  · rw [List.getElem?_append_left (by omega), e]
    by_cases h1 : i < m.length
    · rw [List.getElem?_append_left (by simp; omega), List.getElem?_append_left (by omega)]; simp [h1]
    by_cases h2 : i = m.length
    · subst h2; simp
    · rw [List.getElem?_append_right (by simp; omega)]
      simp only [h1, h2, h, if_false, if_true]
      rw [List.getElem?_replicate]; split <;> rfl
  · rw [List.getElem?_append_right (by omega), hl]
    have h1 : ¬ i < m.length := by omega
    have h2 : ¬ i = m.length := by omega
    simp only [h1, h2, h, if_false]
    by_cases h3 : i < 64 * ((m.length + 72) / 64)
    · have : i - (64 * ((m.length + 72) / 64) - 8) < 8 := by omega
      simp [h3, List.getElem?_range this]
    · have : 8 ≤ i - (64 * ((m.length + 72) / 64) - 8) := by omega
      simp [h3, this]

/-- The length of the padded message (R57). -/
theorem length_pad (m : List Byte) : (pad m).length = 64 * ((m.length + 72) / 64) := by
  rw [pad, List.length_append, length_padZeros]; simp; omega

/-- A byte of the message is the byte of MSG. -/
theorem getD_msgPrefix (s : State) (n i : Nat) (h : i < n) : (msgPrefix s n).getD i 0 = msgByte s i := by
  simp [msgPrefix, h]

@[simp] theorem length_msgPrefix (s : State) (n : Nat) : (msgPrefix s n).length = n := by simp [msgPrefix]

/-- A byte of a block is a byte of the padded message (R60). -/
theorem byteAt_blockOf (p : List Byte) (k i : Nat) (h : i < 64) :
    byteAt (blockOf p k) i = p.getD (64 * k + i) 0 := by simp [byteAt, blockOf, h]

end Sys2Proof.Laws
end

