-- ==== Sys2Proof/Tests/Slice0.lean ====
section
/-! SUPPORT. The model's own tests. Expected values come from 95_test_vectors.md and from the tables of
the spec, never from the model. The last part has, for each statement with hypotheses, states and operands
that meet them. -/

namespace Sys2Proof.Tests

open Sys2Proof.Machine Sys2Proof.Safety Sys2Proof.Laws

/-! ## WellFormed: one ill-formed term for each check, and the terms at its bounds -/

theorem test_wf_loadW : [15, 16].map (fun t => (Instr.loadW t).wf) = [true, false] := by decide
theorem test_wf_expandW :
    [15, 16, 79, 80].map (fun t => (Instr.expandW t).wf) = [false, true, true, false] := by decide
theorem test_wf_roundF : [19, 20].map (fun t => (Instr.roundF t).wf) = [true, false] := by decide
theorem test_wf_roundG :
    [19, 20, 39, 40].map (fun t => (Instr.roundG t).wf) = [false, true, true, false] := by decide
theorem test_wf_roundH :
    [39, 40, 59, 60].map (fun t => (Instr.roundH t).wf) = [false, true, true, false] := by decide
theorem test_wf_roundI :
    [59, 60, 79, 80].map (fun t => (Instr.roundI t).wf) = [false, true, true, false] := by decide
theorem test_wf_msg32 : [3, 4].map (fun i => ((Instr.rdMsg32 i).wf, (Instr.wrMsg32 i 0).wf))
    = [(false, false), (true, true)] := by decide
theorem test_wf_rsvd8 :
    [0xFFF, 0x1000].map (fun o => ((Instr.rdRsvd8 o).wf, (Instr.wrRsvd8 o 0).wf))
    = [(false, false), (true, true)] := by decide
theorem test_wf_rsvd32 :
    [0x20, 0x24, 0x26].map (fun o => ((Instr.rdRsvd32 o).wf, (Instr.wrRsvd32 o 0).wf))
    = [(false, false), (true, true), (false, false)] := by decide

/-! ## Decode: words written out from 30_encoding.md R46, R47, R50 and 20_memory.md R37 -/

/-- OP ‖ Z ‖ T, a word per uop (R46, R47). -/
theorem test_decode_uops :
    [0b0000000000000000, 0b0001000000000000, 0b0010000000000000, 0b0011000000001111,
     0b0100000001001111, 0b0101000000000000, 0b0110000000010011, 0b0111000000010111,
     0b1000000000101000, 0b1001000000111100, 0b1010000000000000, 0b1011000000000000].map decodeUop
    = [some .idle, some .check, some .initH, some (.loadW 15), some (.expandW 79), some .initWork,
       some (.roundF 19), some (.roundG 23), some (.roundH 40), some (.roundI 60), some .accum,
       some .serialize] := by decide

/-- The invalid words of 95_test_vectors.md section 2.6. -/
theorem test_decode_invalid :
    [0x3010, 0x400F, 0x6014, 0x9050, 0x0001, 0x1001, 0x3080, 0xC000, 0xFFFF].map decodeUop
    = List.replicate 9 none := by decide

/-- WR ‖ SZ ‖ Z ‖ OFF, the reads and writes of the named registers; the data of a write in bits 63:32. -/
theorem test_decode_registers :
    [0b01000000000000000000000000000000, 0b01000000000000000000000000000100,
     0b01000000000000000000000000001000, 0b01000000000000000000000000001100,
     0b01000000000000000000000000010000, 0b01000000000000000000000000010100,
     0b01000000000000000000000000011000, 0b01000000000000000000000000011100,
     0b01000000000000000000000000100000].map (decodeTableWord 32)
    = [some .rdCtrl, some .rdStatus, some .rdLenLo, some .rdLenHi, some .rdDigest0, some .rdDigest1,
       some .rdDigest2, some .rdDigest3, some .rdDigest4] := by decide

theorem test_decode_register_writes :
    [0xDEADBEEFC0000000, 0xDEADBEEFC0000004, 0xDEADBEEFC0000008, 0xDEADBEEFC000000C, 0xDEADBEEFC0000010,
     0xDEADBEEFC0000014, 0xDEADBEEFC0000018, 0xDEADBEEFC000001C, 0xDEADBEEFC0000020].map
      (decodeTableWord 64)
    = [some (.wrCtrl 0xDEADBEEF), some (.wrStatus 0xDEADBEEF), some (.wrLenLo 0xDEADBEEF),
       some (.wrLenHi 0xDEADBEEF), some (.wrDigest0 0xDEADBEEF), some (.wrDigest1 0xDEADBEEF),
       some (.wrDigest2 0xDEADBEEF), some (.wrDigest3 0xDEADBEEF), some (.wrDigest4 0xDEADBEEF)] := by
  decide

/-- The message window and reserved space, with an 8-bit write's data in the low byte. -/
theorem test_decode_windows :
    [0x0000000001000000, 0x000000618100003F, 0x0000000041000004, 0x61626380C1000000, 0x0000000000001000,
     0x0000000580FFFFFF, 0x0000000040000024, 0x00000007C0001000].map (decodeTableWord 64)
    = [some (.rdMsg8 0), some (.wrMsg8 63 0x61), some (.rdMsg32 4), some (.wrMsg32 0 0x61626380),
       some (.rdRsvd8 0x1000), some (.wrRsvd8 0xFFFFFF 5), some (.rdRsvd32 0x24),
       some (.wrRsvd32 0x1000 7)] := by decide

/-- The UNSUPPORTED descriptors of section 2.6. -/
theorem test_decode_unsupported :
    [0x40000002, 0x20000000, 0x60000000, 0x00000004, 0xC1000003, 0x02000000].map (decodeTableWord 32)
    = List.replicate 6 none := by decide

/-! ## Small states -/

/-- Reset, at a position. -/
def pos (op : Op) (t : BitVec 7) : State := { State.reset with seq := ⟨op, t⟩ }

/-- RAW "abc", latched, past CHECK, at a position. -/
def abc (op : Op) (t : BitVec 7) : State :=
  { pos op t with lenLo := 3, lLat := 3, nb := 1, msg := [(0, 0x61), (1, 0x62), (2, 0x63)] }

/-- Working registers and one schedule word. -/
def mid (op : Op) (t : BitVec 7) (r : Work) (v : Word) : State :=
  writeW t.toNat v (writeWork r (abc op t))

/-- A field of the next state, if there is one. -/
def after {α : Type} (r : Result) (f : State → α) : Option α :=
  match r with
  | .next s => some (f s)
  | .fault _ => none
  | .refused _ => none

/-- The value the last host read returned. -/
def lastRead (s : State) : Option BusValue := s.returned.head?

/-! ## The uops: expected values from sections 2.2, 2.4, 2.5 and P5 -/

theorem test_idle : after (exec .idle State.reset) (fun t => decide (t = State.reset)) = some true := by
  decide
theorem test_check_two_blocks :
    after (exec .check { pos .check 0 with lLat := 56 }) (fun t => (t.nb, t.seq))
      = some (2, ⟨.initH, 0⟩) := by decide
theorem test_check_priority :
    after (exec .check { pos .check 0 with lLat := 0x2000000000000000 }) (fun t => (statusWord t, t.seq))
      = some (0x24, ⟨.idle, 0⟩) := by decide
theorem test_initH : after (exec .initH (pos .initH 0)) (fun t => (t.h.h4, t.k, t.seq))
    = some (0xC3D2E1F0, 0, ⟨.loadW, 0⟩) := by decide
theorem test_loadW_first : after (exec (.loadW 0) (abc .loadW 0)) (fun t => (t.w[0]?, t.seq))
    = some (some 0x61626380, ⟨.loadW, 1⟩) := by decide
theorem test_loadW_last : after (exec (.loadW 15) (abc .loadW 15)) (fun t => (t.w[15]?, t.seq))
    = some (some 0x00000018, ⟨.expandW, 16⟩) := by decide
/-- With SHA-1's rotate the word would be 0xC2C4C700. -/
theorem test_expandW_no_rotate :
    after (exec (.expandW 16) (writeW 0 0x61626380 (abc .expandW 16))) (fun t => t.w[16]?)
      = some (some 0x61626380) := by decide
theorem test_expandW_sources :
    after (exec (.expandW 79) (writeW 76 1 (writeW 71 2 (writeW 65 4 (writeW 63 8 (abc .expandW 79))))))
      (fun t => (t.w[79]?, t.seq)) = some (some 15, ⟨.initWork, 0⟩) := by decide
theorem test_initWork :
    after (exec .initWork { abc .initWork 0 with h := ⟨1, 2, 3, 4, 5⟩ }) (fun t => (t.work, t.seq))
      = some (⟨1, 2, 3, 4, 5⟩, ⟨.roundF, 0⟩) := by decide
theorem test_roundF :
    after (exec (.roundF 0) (mid .roundF 0
      ⟨0x67452301, 0xEFCDAB89, 0x98BADCFE, 0x10325476, 0xC3D2E1F0⟩ 0x61626380)) (fun t => t.work)
      = some ⟨0x0116FC33, 0x67452301, 0x7BF36AE2, 0x98BADCFE, 0x10325476⟩ := by decide
theorem test_roundF_last :
    after (exec (.roundF 19) (mid .roundF 19
      ⟨0x550B1E7F, 0x565DF73C, 0xFB4BFD28, 0xC82F758B, 0xC65AFB9D⟩ 0x61626380))
      (fun t => (t.work.a, t.seq)) = some (0xFE0F9E4B, ⟨.roundG, 20⟩) := by decide
theorem test_roundG :
    after (exec (.roundG 20) (mid .roundG 20
      ⟨0xFE0F9E4B, 0x550B1E7F, 0x15977DCF, 0xFB4BFD28, 0xC82F758B⟩ 0)) (fun t => t.work)
      = some ⟨0xB4D4C943, 0xFE0F9E4B, 0xD542C79F, 0x15977DCF, 0xFB4BFD28⟩ := by decide
theorem test_roundH :
    after (exec (.roundH 40) (mid .roundH 40
      ⟨0xEBBD5233, 0x4BF58DC8, 0xC28CF33D, 0x190CFF74, 0x3007318B⟩ 0)) (fun t => t.work)
      = some ⟨0x825A3460, 0xEBBD5233, 0x12FD6372, 0xC28CF33D, 0x190CFF74⟩ := by decide
theorem test_roundI :
    after (exec (.roundI 60) (mid .roundI 60
      ⟨0x8FF296DB, 0xBE2A4656, 0x56E30CF2, 0xA6D0D935, 0x48DAF523⟩ 0x61626398)) (fun t => t.work)
      = some ⟨0xC10C8993, 0x8FF296DB, 0xAF8A9195, 0x56E30CF2, 0xA6D0D935⟩ := by decide
theorem test_roundI_last :
    after (exec (.roundI 79) (mid .roundI 79
      ⟨0x24FF7ED5, 0x70286C07, 0xF7F9F921, 0x2E1B1690, 0x86027578⟩ 0)) (fun t => (t.work.a, t.seq))
      = some (0x9A1F95A8, ⟨.accum, 0⟩) := by decide
theorem test_accum_last :
    after (exec .accum { abc .accum 0 with
      h := iv, work := ⟨0x9A1F95A8, 0x24FF7ED5, 0xDC0A1B01, 0xF7F9F921, 0x2E1B1690⟩ })
      (fun t => (t.h, t.k, t.seq))
      = some (⟨0x0164B8A9, 0x14CD2A5E, 0x74C4F7FF, 0x082C4D97, 0xF1EDF880⟩, 0, ⟨.serialize, 0⟩) := by
  decide
theorem test_accum_next_block :
    after (exec .accum { abc .accum 0 with nb := 2 }) (fun t => (t.k, t.seq))
      = some (1, ⟨.loadW, 0⟩) := by decide
theorem test_serialize :
    after (exec .serialize { abc .serialize 0 with h := ⟨1, 2, 3, 4, 5⟩ })
      (fun t => (t.digest, statusWord t, t.seq)) = some (⟨1, 2, 3, 4, 5⟩, 0x2, ⟨.idle, 0⟩) := by decide

/-! ## The host transactions: expected values from section 2.7 and the rules R84 to R101 -/

theorem test_rdCtrl :
    after (exec .rdCtrl { State.reset with ctrlMode := .prepadded }) lastRead
      = some (some (.word 2)) := by decide
theorem test_wrCtrl_mode_only :
    after (exec (.wrCtrl 0x2) State.reset) (fun t => (ctrlWord t, t.seq)) = some (2, ⟨.idle, 0⟩) := by decide
theorem test_wrCtrl_start :
    after (exec (.wrCtrl 0xFFFFFFFF) { State.reset with
      lenHi := 1, done := true, digest := ⟨1, 2, 3, 4, 5⟩ })
      (fun t => (ctrlWord t, t.lLat, statusWord t, t.digest, t.seq))
      = some (2, 2 ^ 32, 1, ⟨0, 0, 0, 0, 0⟩, ⟨.check, 0⟩) := by decide
theorem test_rdStatus_busy :
    after (exec .rdStatus (abc .loadW 3)) lastRead = some (some (.word 1)) := by decide
theorem test_rdStatus_error :
    after (exec .rdStatus { State.reset with err := true, errCode := 3 }) lastRead
      = some (some (.word 0x34)) := by decide
theorem test_wrStatus :
    after (exec (.wrStatus 0) { State.reset with done := true }) statusWord = some 2 := by decide
theorem test_rdLenLo : after (exec .rdLenLo (abc .idle 0)) lastRead = some (some (.word 3)) := by decide
theorem test_wrLenLo : after (exec (.wrLenLo 0x99) (abc .idle 0)) (fun t => (t.lenLo, t.lenHi))
    = some (0x99, 0) := by decide
theorem test_wrLenLo_busy : after (exec (.wrLenLo 0x99) (abc .loadW 0)) (fun t => t.lenLo) = some 3 := by
  decide
theorem test_rdLenHi :
    after (exec .rdLenHi { State.reset with lenLo := 1, lenHi := 0x20000000 }) lastRead
      = some (some (.word 0x20000000)) := by decide
theorem test_wrLenHi : after (exec (.wrLenHi 0x20000000) (abc .idle 0)) (fun t => (t.lenLo, t.lenHi))
    = some (3, 0x20000000) := by decide
theorem test_rdDigests :
    [Instr.rdDigest0, .rdDigest1, .rdDigest2, .rdDigest3, .rdDigest4].map
      (fun i => after (exec i { State.reset with digest := ⟨1, 2, 3, 4, 5⟩ }) lastRead)
    = [1, 2, 3, 4, 5].map (fun v => some (some (.word v))) := by decide
theorem test_wrDigests :
    [Instr.wrDigest0 5, .wrDigest1 5, .wrDigest2 5, .wrDigest3 5, .wrDigest4 5].map
      (fun i => after (exec i State.reset) (fun t => t.digest))
    = List.replicate 5 (some ⟨0, 0, 0, 0, 0⟩) := by decide
theorem test_rdMsg8 : after (exec (.rdMsg8 2) (abc .idle 0)) lastRead = some (some (.byte 0x63)) := by decide
theorem test_rdMsg8_tail : after (exec (.rdMsg8 64) (abc .idle 0)) lastRead = some (some (.byte 0)) := by
  decide
theorem test_wrMsg8 : after (exec (.wrMsg8 1 0xFF) (abc .idle 0)) (fun t => t.msg)
    = some [(0, 0x61), (1, 0xFF), (2, 0x63)] := by decide
theorem test_wrMsg8_busy : after (exec (.wrMsg8 0 0) (abc .loadW 0)) (fun t => t.msg)
    = some [(0, 0x61), (1, 0x62), (2, 0x63)] := by decide
theorem test_rdMsg32 :
    after (exec (.rdMsg32 60) { State.reset with
      msg := [(60, 0x61), (61, 0x62), (62, 0x63), (63, 0x80)] }) lastRead
      = some (some (.word 0x61626380)) := by decide
theorem test_rdMsg32_tail :
    after (exec (.rdMsg32 64) State.reset) lastRead = some (some (.word 0)) := by decide
theorem test_wrMsg32 : after (exec (.wrMsg32 0 0x61626380) State.reset) (fun t => t.msg)
    = some [(0, 0x61), (1, 0x62), (2, 0x63), (3, 0x80)] := by decide
theorem test_wrMsg32_tail : after (exec (.wrMsg32 64 1) State.reset) (fun t => t.msg) = some [] := by decide
theorem test_rdRsvd8 : after (exec (.rdRsvd8 0x1000) State.reset) lastRead = some (some (.byte 0)) := by
  decide
theorem test_rdRsvd32 : after (exec (.rdRsvd32 0x24) State.reset) lastRead = some (some (.word 0)) := by
  decide
theorem test_wrRsvd8 :
    after (exec (.wrRsvd8 0x1000 1) State.reset) (fun t => decide (t = State.reset)) = some true := by decide
theorem test_wrRsvd32 :
    after (exec (.wrRsvd32 0x24 1) State.reset) (fun t => decide (t = State.reset)) = some true := by decide

/-! ## The datapath and the padder: sections 2.1 and 2.3 -/

theorem test_rotl : (rotl 0x80000001 .five, rotl 0x12345678 .five, rotl 0x12345678 .thirty)
    = (0x00000030, 0x468ACF02, 0x048D159E) := by decide
theorem test_mux :
    [Quartile.f, .g, .h, .i].map (fun q => roundFn q 0xF0F0F0F0 0xFF00FF00 0x0F0F0F0F)
      = [0xFF0FFF0F, 0x00FF00FF, 0xFF00FF00, 0x00FF00FF] := by decide
theorem test_ksel : [19, 20, 39, 40, 59, 60].map ksel
    = [0x5A827999, 0x6ED9EBA1, 0x6ED9EBA1, 0x8F1BBCDC, 0x8F1BBCDC, 0xCA62C1D6] := by decide
theorem test_pad_lengths :
    [0, 55, 56, 120].map (fun n => (pad (List.replicate n 0x61)).length) = [64, 64, 128, 192] := by
  simp only [length_pad, List.length_replicate]; decide
theorem test_length_bytes : (List.range 8).map (lengthByte 1000) = [0, 0, 0, 0, 0, 0, 0x1F, 0x40] := by
  decide

/-! ## A step: turns, refusals and withFetchWord -/

theorem test_step_uop :
    after (step (State.reset.withFetchWord 16 0x2000)) (fun t => (t.h, t.schedule)) = some (iv, []) := by
  decide
/-- Right after reset every uop runs, and the ten that read an internal register leave the record (R31). -/
theorem test_step_records_unwritten_reads :
    [0x1000, 0x3000, 0x4010, 0x5000, 0x6000, 0x7014, 0x8028, 0x903C, 0xA000, 0xB000, 0x0000, 0x2000].map
      (fun u => after (step (State.reset.withFetchWord 16 u)) (fun t => t.unwrittenRead))
    = List.replicate 10 (some true) ++ [some false, some false] := by decide
theorem test_step_records_no_written_read :
    after (step { pos .check 0 with written := { Written.none with lLat := true, modeLat := true } })
      (fun t => t.unwrittenRead) = some false := by decide
theorem test_step_txn :
    after (step (State.reset.withFetchWord 64 0x5C0000008)) (fun t => (t.lenLo, t.inputs)) = some (5, []) := by
  decide
theorem test_step_refuses_uop :
    (match step (State.reset.withFetchWord 16 0x3080) with
      | .refused (.invalidUop _) => true
      | _ => false) = true := by decide
theorem test_step_refuses_txn :
    (match step (State.reset.withFetchWord 32 0x20000000) with
      | .refused (.unsupported d) => decide (d = 0x20000000)
      | _ => false) = true := by decide
theorem test_step_reset_input :
    after (step { abc .loadW 3 with inputs := [.reset], schedule := [.host], done := true })
      (fun t => (t.seq, t.msg, t.epoch, statusWord t)) = some (⟨.idle, 0⟩, [], 1, 0) := by decide

/-! ## Witnesses: for each statement with hypotheses, states and operands that meet them -/

/-- LEN = 3 and "abc" in MSG, idle. -/
def waiting : State :=
  { State.reset with lenLo := 3, msg := [(0, 0x61), (1, 0x62), (2, 0x63)] }

/-- Right after START. -/
def started : State := startComputation .raw waiting

theorem inv_waiting : Inv waiting :=
  ⟨rfl, nofun, nofun, by decide, by decide, fun _ => rfl, nofun, nofun, nofun, rfl, by decide,
    ordered_idle rfl, rfl⟩

theorem inv_started : Inv started :=
  ⟨rfl, fun _ => ⟨rfl, rfl, rfl⟩, nofun, by decide, by decide, fun _ => rfl, fun _ => ⟨rfl, rfl⟩, nofun,
    nofun, rfl, by decide, ⟨fun _ => ⟨rfl, rfl⟩, nofun, nofun, nofun, nofun⟩, rfl⟩

/-- The one block of "abc" has been hashed, before SERIALIZE. -/
def serializing : State :=
  { started with
    nb := 1
    h := hashBlocks (paddedMessage started) 1
    written := { started.written with nb := true, h := true, k := true }
    seq := ⟨.serialize, 0⟩ }

theorem inv_serializing : Inv serializing :=
  ⟨rfl, fun _ => ⟨rfl, rfl, rfl⟩, nofun, by decide, by decide, fun _ => rfl, fun _ => ⟨rfl, rfl⟩,
    fun _ => rfl, nofun, rfl, by decide,
    ⟨fun _ => ⟨rfl, rfl⟩, fun _ => rfl, fun _ => ⟨rfl, rfl⟩, nofun, nofun⟩, rfl⟩

theorem computed_serializing : Computed serializing := by
  refine ⟨fun _ => ?_, nofun, nofun⟩
  have e : paddedMessage serializing = paddedMessage started := paddedMessage_congr rfl rfl rfl rfl
  rw [e]
  rfl

/-- A transaction as the oldest input. -/
def withInput (x : Input) : State := { State.reset with inputs := [x] }

theorem test_witness_ResetInputIsOneStep :
    nextAgent (withInput .reset) = .host ∧ (withInput .reset).inputs = .reset :: [] := by decide

theorem test_witness_EngineTurnRunsTheNamedUop :
    (nextAgent (abc .roundG 39) = .engine
      ∧ decodeUop (abc .roundG 39).seq.word = some (.roundG 39))
    ∧ (nextAgent (abc .roundG 40) = .engine ∧ decodeUop (abc .roundG 40).seq.word = none) := by decide

theorem test_witness_HostTurnRunsTheOldestTransaction :
    (nextAgent (withInput (.txn (txnRd32 4))) = .host ∧ decodeHost (txnRd32 4) = some .rdStatus)
    ∧ (nextAgent (withInput (.txn (txnRd8 4))) = .host ∧ decodeHost (txnRd8 4) = none)
    ∧ (nextAgent { State.reset with schedule := [.host] } = .host ∧ State.reset.inputs = []) := by decide

/-- One descriptor for each ground of refusal, and the ones at the bounds that are not refused. -/
theorem test_witness_UnsupportedDescriptorsAreRefused :
    [0x02000000#32, 0x20000000, 0x60000000, 0x40000002, 0x00000FFF, 0x00001000, 0x40000000].map
      (fun d =>
        let sz := d.extractLsb' 29 2
        let off := (d.extractLsb' 0 25).toNat
        (decide (d.extractLsb' 25 4 ≠ 0), decide (sz = 0b01), decide (sz = 0b11),
          decide (sz = 0b10 ∧ off % 4 ≠ 0), decide (sz = 0b00 ∧ off < 0x1000)))
    = [(true, false, false, false, true), (false, true, false, false, false),
       (false, false, true, false, false), (false, false, false, true, false),
       (false, false, false, false, true), (false, false, false, false, false),
       (false, false, false, false, false)] := by decide

theorem test_witness_IdleEngineIsQuiescent :
    (State.reset.seq = ⟨.idle, 0⟩ ∧ State.reset.inputs = [] ∧ State.reset.schedule = [])
    ∧ ((withInput (.txn (txnWr32 0 1))).seq = ⟨.idle, 0⟩
      ∧ after (step (withInput (.txn (txnWr32 0 1)))) State.busy = some true) := by decide

theorem test_witness_ScheduleDecidesWhoMoves :
    { State.reset with schedule := [.host] }.schedule = .host :: []
    ∧ ((abc .check 0).schedule = [] ∧ (abc .check 0).busy = true)
    ∧ ((withInput .reset).schedule = [] ∧ (withInput .reset).busy = false
      ∧ (withInput .reset).inputs ≠ []) := by decide

theorem test_witness_ValidUopWordsAreThoseOfTheTable :
    (0#7).toNat = 0 ∧ (15#7).toNat ≤ 15 ∧ 16 ≤ (16#7).toNat ∧ (79#7).toNat ≤ 79 ∧ (19#7).toNat ≤ 19
    ∧ 20 ≤ (20#7).toNat ∧ (39#7).toNat ≤ 39 ∧ 40 ≤ (40#7).toNat ∧ (59#7).toNat ≤ 59
    ∧ 60 ≤ (60#7).toNat := by decide

theorem test_witness_DescriptorsDecodeByTheProcedure :
    (0xFFFFFC#24).toNat % 4 = 0 ∧ 0x1000 ≤ (0x1000#24).toNat
    ∧ (0x24#24).toNat % 4 = 0 ∧ 0x24 ≤ (0x24#24).toNat := by decide

theorem test_witness_SerializePublishesTheDigest : 0 < 5 ∧ 4 < 5 ∧ 0 < 4 ∧ 3 < 4 := by decide

theorem test_witness_ResetLeavesTheResetValues : 0 < 80 ∧ 79 < 80 := by decide

theorem test_witness_DecodeOfEncodeIsTheInstruction :
    (Instr.roundI 79).wf = true ∧ (Instr.wrMsg32 0xFFFFFC 0xDEADBEEF).wf = true
    ∧ (Instr.rdRsvd8 0x1000).wf = true := by decide

theorem test_witness_EncodeOfDecodeIsTheWord :
    decodeUop 0x904F = some (.roundI 79) ∧ decodeHost ⟨0x8100003F, 0xFF61⟩ = some (.wrMsg8 63 0x61) := by
  decide

theorem test_witness_IllFormedInstructionsAreRefused :
    ((Instr.loadW 16).wf = false ∧ encode (.loadW 16) = .uop 0x3010)
    ∧ ((Instr.rdMsg32 3).wf = false ∧ encode (.rdMsg32 3) = .host ⟨0x41000003, 0⟩) := by decide

/-- The lowest and the highest bit. -/
theorem test_witness_RotlIsCircular : 0 < 32 ∧ 31 < 32 := by decide

theorem test_witness_MuxActsBitwise : 0 < 32 ∧ 31 < 32 := by decide

/-- A state at CHECK with these latches and one block of buffer. -/
def checking (m : Mode) (l : Length) : State := { pos .check 0 with modeLat := m, lLat := l }

/-- Each clause at the ends of its range (section 2.5). -/
theorem test_witness_CheckTestsTheLength :
    (checking .raw 0x2000000000000000).modeLat = .raw
    ∧ 2 ^ 61 ≤ (checking .raw 0x2000000000000000).lLat.toNat
    ∧ (checking .raw 0x1FFFFFFFFFFFFFFF).lLat.toNat < 2 ^ 61
    ∧ 64 * (checking .raw 65).params.msgBufBlocks.val < (checking .raw 65).lLat.toNat
    ∧ (checking .raw 64).lLat.toNat ≤ 64 * (checking .raw 64).params.msgBufBlocks.val
    ∧ (checking .prepadded 0).lLat.toNat = 0 ∧ (checking .prepadded 60).lLat.toNat % 64 ≠ 0
    ∧ (checking .prepadded 128).lLat.toNat % 64 = 0
    ∧ 64 * (checking .prepadded 128).params.msgBufBlocks.val < (checking .prepadded 128).lLat.toNat
    ∧ (checking .prepadded 64).lLat.toNat % 64 = 0 ∧ (checking .prepadded 64).lLat.toNat ≠ 0
    ∧ (checking .prepadded 64).lLat.toNat ≤ 64 * (checking .prepadded 64).params.msgBufBlocks.val := by
  decide

/-- A byte that can be read, as an option. -/
def okByte (r : Except Fault Byte) : Option Byte :=
  match r with
  | .ok b => some b
  | .error _ => none

theorem test_witness_LoadWFormsTheBigEndianWord :
    (0#7).toNat ≤ 15 ∧ (15#7).toNat ≤ 15 ∧ (abc .loadW 0).k < (abc .loadW 0).nb
    ∧ [0, 1, 2, 3, 60, 61, 62, 63].map (fun i => okByte (paddedByte (abc .loadW 0) i))
      = [some 0x61, some 0x62, some 0x63, some 0x80, some 0, some 0, some 0, some 0x18] := by decide

theorem test_witness_LoadWCompletesAfterCheck :
    (15#7).toNat ≤ 15 ∧ checkLength (abc .loadW 15) = .ok (abc .loadW 15).nb
    ∧ (abc .loadW 15).k < (abc .loadW 15).nb := ⟨by decide, rfl, by decide⟩

/-- The four sources of the first and of the last word. -/
theorem test_witness_ExpandWXorsFourWords :
    16 ≤ (16#7).toNat ∧ (79#7).toNat ≤ 79
    ∧ [13, 8, 2, 0, 76, 71, 65, 63].map (fun j => (abc .expandW 16).w[j]?)
      = List.replicate 8 (some 0) := by decide

theorem test_witness_RoundFMixes : (19#7).toNat ≤ 19 ∧ (abc .roundF 19).w[19]? = some 0 := by decide

theorem test_witness_RoundGMixes :
    20 ≤ (20#7).toNat ∧ (39#7).toNat ≤ 39 ∧ (abc .roundG 20).w[20]? = some 0
    ∧ (abc .roundG 39).w[39]? = some 0 := by decide

theorem test_witness_RoundHMixes :
    40 ≤ (40#7).toNat ∧ (59#7).toNat ≤ 59 ∧ (abc .roundH 40).w[40]? = some 0
    ∧ (abc .roundH 59).w[59]? = some 0 := by decide

theorem test_witness_RoundIMixes :
    60 ≤ (60#7).toNat ∧ (79#7).toNat ≤ 79 ∧ (abc .roundI 60).w[60]? = some 0
    ∧ (abc .roundI 79).w[79]? = some 0 := by decide

theorem test_witness_AccumAddsAndMovesOn :
    { abc .accum 0 with nb := 2 }.k + 1 < { abc .accum 0 with nb := 2 }.nb
    ∧ (abc .accum 0).k + 1 = (abc .accum 0).nb := by decide

theorem test_witness_OpenValuesAreFreeValues :
    ((15#7).toNat ≤ 15 ∧ State.reset.nb ≤ State.reset.k) ∧ State.reset.nb < State.reset.k + 1 := by decide

theorem test_witness_StatusHasSixValues : Inv started := inv_started

/-- Busy; idle without START; idle with START. -/
theorem test_witness_CtrlWriteSetsModeAndStarts :
    (abc .accum 0).seq.op ≠ .idle
    ∧ (State.reset.seq.op = .idle ∧ (2#32).getLsbD 0 = false ∧ (3#32).getLsbD 0 = true) := by decide

theorem test_witness_LengthWritesWhileIdle :
    State.reset.seq.op = .idle ∧ (abc .check 0).seq.op ≠ .idle := by decide

theorem test_witness_ReadOnlyAndReservedWritesChangeNothing :
    0x1000 ≤ (0x1000#24).toNat ∧ (0x24#24).toNat % 4 = 0 ∧ 0x24 ≤ (0x24#24).toNat := by decide

theorem test_witness_ReservedReadsReturnZero :
    0x1000 ≤ (0xFFFFFF#24).toNat ∧ (0xFFFFFC#24).toNat % 4 = 0 ∧ 0x24 ≤ (0xFFFFFC#24).toNat := by decide

/-- The last byte and word of the buffer, and the first of the reserved tail. -/
theorem test_witness_MessageReadsReturnTheBytes :
    (63#24).toNat < 64 * State.reset.params.msgBufBlocks.val
    ∧ 64 * State.reset.params.msgBufBlocks.val ≤ (64#24).toNat
    ∧ ((60#24).toNat % 4 = 0 ∧ (60#24).toNat < 64 * State.reset.params.msgBufBlocks.val)
    ∧ (64#24).toNat % 4 = 0 := by decide

theorem test_witness_ByteWriteStoresOneByte :
    Memory.wf waiting.msg = true ∧ (waiting.seq.op = .idle
      ∧ (63#24).toNat < 64 * waiting.params.msgBufBlocks.val)
    ∧ Memory.wf (abc .check 0).msg = true ∧ (abc .check 0).seq.op ≠ .idle
    ∧ 64 * waiting.params.msgBufBlocks.val ≤ (64#24).toNat := by decide

theorem test_witness_WordWriteStoresFourBytes :
    Memory.wf waiting.msg = true ∧ (60#24).toNat % 4 = 0 ∧ (waiting.seq.op = .idle
      ∧ (60#24).toNat < 64 * waiting.params.msgBufBlocks.val)
    ∧ (abc .check 0).seq.op ≠ .idle
    ∧ (64#24).toNat % 4 = 0 ∧ 64 * waiting.params.msgBufBlocks.val ≤ (64#24).toNat := by decide

theorem test_witness_MixedWidthAccessesAgree :
    Memory.wf waiting.msg = true ∧ waiting.seq.op = .idle ∧ (0#24).toNat % 4 = 0
    ∧ (0#24).toNat < 64 * waiting.params.msgBufBlocks.val := by decide

theorem test_witness_WritesWhileBusyAreIgnored :
    (abc .loadW 0).busy = true ∧ (4#24).toNat % 4 = 0 := by decide

theorem test_witness_UopsLeaveTheRestUnchanged :
    decodeUop 0x6000 = some (.roundF 0)
    ∧ after (exec (.roundF 0) (abc .roundF 0)) (fun t => decide (t.work ≠ (abc .roundF 0).work))
      = some true := by decide

theorem test_witness_TransactionsLeaveTheRestUnchanged :
    decodeHost (txnWr32 0 3) = some (.wrCtrl 3)
    ∧ after (exec (.wrCtrl 3) waiting) (fun t => decide (t.seq ≠ waiting.seq)) = some true
    ∧ decodeHost (txnWr8 (msgOff 63) 1) = some (.wrMsg8 63 1)
    ∧ after (exec (.wrMsg8 63 1) waiting) (fun t => (msgByte t 63, msgByte t 2)) = some (1, 0x63)
    ∧ decodeHost (txnWr32 (msgOff 60) 1) = some (.wrMsg32 60 1)
    ∧ after (exec (.wrMsg32 60 1) waiting) (fun t => (msgByte t 63, msgByte t 2)) = some (1, 0x63) := by
  decide

theorem test_witness_DigestChangesOnlyByThreeEvents :
    after (step { pos .serialize 0 with h := iv }) (fun t => decide (t.digest ≠ Hash.zero)) = some true := by
  decide

theorem test_witness_OnlyCheckRaisesErrors :
    (checking .prepadded 0).err = false
    ∧ after (step (checking .prepadded 0)) (fun t => (t.err, t.errCode)) = some (true, 1) := by decide

/-- "abc" in two buffers that differ only beyond it. -/
theorem test_witness_BytesBeyondTheLengthAreNotRead :
    let s := abc .loadW 0
    let s' := { s with msg := s.msg ++ [(3, 0xFF)] }
    0 < 16 ∧ checkLength s = .ok s.nb ∧ s.k < s.nb ∧ s' = { s with msg := s'.msg, epoch := s'.epoch }
    ∧ (∀ i, i < s.lLat.toNat → msgByte s' i = msgByte s i) ∧ msgByte s' 3 = 0xFF := by
  refine ⟨by decide, rfl, by decide, rfl, ?_, rfl⟩
  intro i hi
  have : i = 0 ∨ i = 1 ∨ i = 2 := by have : i < 3 := hi; omega
  rcases this with rfl | rfl | rfl <;> rfl

theorem test_witness_RunningComputationIsSealed :
    (abc .initH 0).busy = true ∧ after (step (abc .initH 0)) (fun t => t.seq) = some ⟨.loadW, 0⟩
    ∧ ¬ (nextAgent (abc .initH 0) = .host ∧ (abc .initH 0).inputs.head? = some .reset) := by decide

theorem test_witness_PadHasTheStatedProperties :
    ([] : List Byte).length < 2 ^ 61 ∧ ([0x61] : List Byte).length < 2 ^ 61 := by decide

/-- The last byte of the block, in both modes. -/
theorem test_witness_PaddedStreamIsThePaddedMessage :
    checkLength (abc .loadW 0) = .ok (abc .loadW 0).nb ∧ 63 < 64 * (abc .loadW 0).nb
    ∧ checkLength { checking .prepadded 64 with nb := 1 } = .ok 1 := ⟨rfl, by decide, rfl⟩

theorem test_witness_EveryStepKeepsTheInvariant :
    Inv started ∧ after (step started) (fun t => t.seq) = some ⟨.initH, 0⟩ := ⟨inv_started, by decide⟩

/-- Both ends of the ranges of indexes; a turn of the engine and one of the host; a state of the invariant. -/
theorem test_witness_UnwrittenReadsAreRecordedAndNoRunMakesOne :
    (16 ≤ (16#7).toNat ∧ (79#7).toNat ≤ 79 ∧ State.reset.written.w[63]? = some false)
    ∧ (nextAgent (pos .roundF 0) = .engine ∧ decodeUop (pos .roundF 0).seq.word = some (.roundF 0)
      ∧ after (step (pos .roundF 0)) (fun t => t.unwrittenRead) = some true)
    ∧ (nextAgent (withInput .reset) = .host
      ∧ after (step (withInput .reset)) (fun t => t.unwrittenRead) = some false)
    ∧ Inv started ∧ decodeUop started.seq.word = some .check :=
  ⟨by decide, by decide, by decide, inv_started, by decide⟩

theorem test_witness_OnlyUnsupportedTransactionsStopARun : Inv started := inv_started

theorem test_witness_EveryStepKeepsTheComputation :
    Inv serializing ∧ Computed serializing ∧ step serializing = .next (setSeq ⟨.idle, 0⟩
      (setDone (writeDigest serializing.h serializing))) := ⟨inv_serializing, computed_serializing, rfl⟩

theorem test_witness_PublishedDigestIsRight :
    Inv serializing ∧ Computed serializing ∧ serializing.busy = true
    ∧ (setSeq ⟨.idle, 0⟩ (setDone (writeDigest serializing.h serializing))).done = true
    ∧ serializing.modeLat = .raw :=
  ⟨inv_serializing, computed_serializing, by decide, rfl, rfl⟩

theorem test_witness_EngineStepsCountDown :
    Inv started ∧ started.busy = true ∧ after (step started) (fun t => t.nb) = some 1
    ∧ nextAgent started = .engine ∧ nextAgent { started with schedule := [.host] } = .host :=
  ⟨inv_started, by decide, by decide, by decide, by decide⟩

theorem test_witness_EveryComputationEnds :
    Inv started ∧ started.busy = true ∧ started.inputs = [] ∧ started.schedule = [] :=
  ⟨inv_started, by decide, rfl, rfl⟩

/-- An idle state with LEN = l and a write of v to CTRL that waits. -/
def starting (l : Word) (v : Word) : State :=
  { waiting with lenLo := l, inputs := [.txn (txnWr32 0x000 v)] }

theorem inv_starting (l v : Word) : Inv (starting l v) :=
  ⟨rfl, nofun, nofun, inv_waiting.errIff, inv_waiting.errCodeRange, fun _ => rfl, nofun, nofun, nofun, rfl,
    inv_waiting.msgInside, ordered_idle rfl, rfl⟩

theorem test_witness_RawComputationHashesTheMessage :
    let s := starting 64 1
    Inv s ∧ s.busy = false ∧ s.schedule = [] ∧ s.inputs = [.txn (txnWr32 0x000 1)]
    ∧ (1#32).getLsbD 0 = true ∧ (1#32).getLsbD 1 = false ∧ (s.lenHi ++ s.lenLo).toNat < 2 ^ 61
    ∧ (s.lenHi ++ s.lenLo).toNat ≤ 64 * s.params.msgBufBlocks.val :=
  ⟨inv_starting _ _, by decide, rfl, rfl, by decide, by decide, by decide, by decide⟩

theorem test_witness_PrepaddedComputationHashesTheBuffer :
    let s := starting 64 3
    Inv s ∧ s.busy = false ∧ s.schedule = [] ∧ s.inputs = [.txn (txnWr32 0x000 3)]
    ∧ (3#32).getLsbD 0 = true ∧ (3#32).getLsbD 1 = true ∧ (s.lenHi ++ s.lenLo).toNat % 64 = 0
    ∧ (s.lenHi ++ s.lenLo).toNat ≠ 0
    ∧ (s.lenHi ++ s.lenLo).toNat ≤ 64 * s.params.msgBufBlocks.val :=
  ⟨inv_starting _ _, by decide, rfl, rfl, by decide, by decide, by decide, by decide, by decide⟩

/-- One start for each of the four grounds of rejection. -/
theorem test_witness_RejectedStartReportsItsError :
    (starting 65 1).busy = false ∧ (starting 65 1).schedule = []
    ∧ (starting 65 1).inputs = [.txn (txnWr32 0x000 1)] ∧ (1#32).getLsbD 0 = true
    ∧ (3#32).getLsbD 0 = true ∧ (1#32).getLsbD 1 = false ∧ (3#32).getLsbD 1 = true
    ∧ 64 * (starting 65 1).params.msgBufBlocks.val < ((starting 65 1).lenHi ++ (starting 65 1).lenLo).toNat
    ∧ (let s := { starting 0 1 with lenHi := 0x20000000 }
      s.busy = false ∧ s.schedule = [] ∧ 2 ^ 61 ≤ (s.lenHi ++ s.lenLo).toNat)
    ∧ ((starting 60 3).lenHi ++ (starting 60 3).lenLo).toNat % 64 ≠ 0
    ∧ ((starting 0 3).lenHi ++ (starting 0 3).lenLo).toNat = 0
    ∧ ((starting 128 3).lenHi ++ (starting 128 3).lenLo).toNat % 64 = 0
    ∧ 64 * (starting 128 3).params.msgBufBlocks.val
      < ((starting 128 3).lenHi ++ (starting 128 3).lenLo).toNat := by decide

end Sys2Proof.Tests
end

section
/-! PROOFS. The classes of operations that the invariant speaks of, along the positions of 43_sequencer.md R81. -/

namespace Sys2Proof.Proofs

open Sys2Proof.Machine Sys2Proof.Safety Sys2Proof.Laws

/-- The first index of an operation is in its range (10_state.md R22). -/
theorem opFirst_le_opLast (op : Op) : opFirst op ≤ opLast op := by cases op <;> decide

/-- Every index fits in the 7 bits of T. -/
theorem opLast_le (op : Op) : opLast op ≤ 79 := by cases op <;> decide

/-- The position after a legal one is legal (R81). -/
theorem legal_nextSeq {p : Seq} (h : Machine.Seq.legal p = true) : Machine.Seq.legal (nextSeq p) = true := by
  rw [legal_iff] at h ⊢
  have hlast := opLast_le p.op
  simp only [nextSeq]
  split
  · simp only [toNat_succ p.t (by omega)]
    omega
  · have hle := opFirst_le_opLast (opAfter p.op)
    have hlast' := opLast_le (opAfter p.op)
    simp only [BitVec.toNat_ofNat]
    omega

theorem pastInit_of_inBlock {op : Op} (h : inBlock op = true) : pastInit op = true := by
  cases op <;> simp_all [inBlock, pastInit]

theorem pastCheck_of_pastInit {op : Op} (h : pastInit op = true) : pastCheck op = true := by
  cases op <;> simp_all [pastCheck, pastInit]

theorem inBlock_of_inRounds {op : Op} (h : inRounds op = true) : inBlock op = true := by
  cases op <;> simp_all [inBlock, inRounds]

/-- In the rounds the block's whole schedule has been written (R82). -/
theorem wordsDone_of_inRounds {p : Seq} (h : inRounds p.op = true) : wordsDone p = 80 := by
  obtain ⟨op, t⟩ := p
  cases op <;> simp_all [inRounds, wordsDone]

theorem busy_of_op {s : State} {op : Op} (h : s.seq.op = op) (hop : op ≠ .idle) : s.busy = true :=
  (busy_iff s).2 (h ▸ hop)

theorem busy_of_pastCheck {s : State} (h : pastCheck s.seq.op = true) : s.busy = true := by
  rw [busy_iff]
  intro hidle
  simp [hidle, pastCheck] at h

/-- The uops that write a word of W (41_schedule.md R61, R62). -/
def writesWord (op : Op) : Prop := op = .loadW ∨ op = .expandW

/-- The ROUND uops (42_alu_rounds.md R71 to R74). -/
def isRound (op : Op) : Prop := op = .roundF ∨ op = .roundG ∨ op = .roundH ∨ op = .roundI

theorem inBlock_of_writesWord {op : Op} (h : writesWord op) : inBlock op = true := by
  rcases h with rfl | rfl <;> rfl

theorem inRounds_of_isRound {op : Op} (h : isRound op) : inRounds op = true := by
  rcases h with rfl | rfl | rfl | rfl <;> rfl

/-- The operation after a position is its own or the one that follows it (R81). -/
theorem nextSeq_op (p : Seq) : (nextSeq p).op = p.op ∨ (nextSeq p).op = opAfter p.op := by
  simp only [nextSeq]
  split
  · exact .inl rfl
  · exact .inr rfl

/-- After a word of W no round of the block has begun. -/
theorem not_inRounds_nextSeq_of_writesWord {p : Seq} (h : writesWord p.op) :
    inRounds (nextSeq p).op = false := by
  rcases h with h | h <;> rcases nextSeq_op p with e | e <;> rw [e, h] <;> rfl

/-- After a round come the rest of the rounds and ACCUM. -/
theorem inRounds_nextSeq_of_isRound {p : Seq} (h : isRound p.op) : inRounds (nextSeq p).op = true := by
  rcases h with h | h | h | h <;> rcases nextSeq_op p with e | e <;> rw [e, h] <;> rfl

theorem wordsDone_of_writesWord {p : Seq} (h : writesWord p.op) : wordsDone p = p.t.toNat := by
  rcases h with h | h <;> simp [wordsDone, h]

/-- LOAD_W and EXPAND_W each write one word more of the block. -/
theorem wordsDone_nextSeq_of_writesWord {p : Seq} (h : writesWord p.op) (hl : Machine.Seq.legal p = true) :
    wordsDone (nextSeq p) = p.t.toNat + 1 := by
  obtain ⟨op, t⟩ := p
  have ht := ((legal_iff _).1 hl).2
  rcases h with h | h <;> cases h
  · exact wordsDone_loadW t ht
  · exact wordsDone_expandW t ht

end Sys2Proof.Proofs
end

section
/-! PROOFS. The order of writes keeps every uop of a run from reading an unwritten register (R31). -/

namespace Sys2Proof.Proofs

open Sys2Proof.Machine Sys2Proof.Safety Sys2Proof.Laws

/-- A word of W is unwritten exactly when its mark says so. -/
theorem wWritten_eq_false_iff (s : State) {n : Nat} (h : n < 80) :
    wWritten s n = false ↔ s.written.w[n]? = some false := by
  simp [wWritten, Vector.getElem?_eq_getElem h]

/-- The uop of a decodable position is the one that the position names. -/
theorem eq_uopOf_of_decodeUop {p : Seq} {i : Instr} (h : decodeUop p.word = some i) : i = uopOf p := by
  rw [decodeUop_word] at h
  split at h
  · exact (Option.some.inj h).symm
  · cases h

/-- LOAD_W reads k and, through the padded stream, NB and the latches, which come before the block. -/
theorem readsUnwritten_loadW_of_ordered {s : State} (h : Ordered s) (hp : pastInit s.seq.op = true)
    (t : BitVec 7) : readsUnwritten (.loadW t) s = false := by
  have hc := pastCheck_of_pastInit hp
  obtain ⟨hL, hM⟩ := h.latches (busy_of_pastCheck hc)
  simp [readsUnwritten, (h.h hp).2, h.nb hc, hL, hM]

/-- EXPAND_W reads four words before its own, which the block has written. -/
theorem readsUnwritten_expandW_of_ordered {s : State} (h : Ordered s) {t : BitVec 7}
    (hs : wordsDone s.seq = t.toNat) (ht : 16 ≤ t.toNat) : readsUnwritten (.expandW t) s = false := by
  have hw (n : Nat) (hn : 0 < n) : wWritten s (t.toNat - n) = true := h.w _ (by omega)
  simp [readsUnwritten, hw]

/-- A ROUND uop reads A–E and one word of the block's schedule. -/
theorem wordsRead_of_inRounds {s : State} (h : Ordered s) (hr : inRounds s.seq.op = true) {n : Nat}
    (hn : n < 80) : (s.written.work && wWritten s n) = true := by
  simp [h.work hr, h.w n (by rw [wordsDone_of_inRounds hr]; exact hn)]

/-- In a state of the invariant the uop that the position names reads written registers only. -/
theorem readsUnwritten_uopOf_of_inv {s : State} (h : Inv s) : readsUnwritten (uopOf s.seq) s = false := by
  have ho := h.ordered
  have hl := (legal_iff _).1 h.seqLegal
  have hlast := opLast_le s.seq.op
  have round (hr : inRounds s.seq.op = true) : (s.written.work && wWritten s s.seq.t.toNat) = true :=
    wordsRead_of_inRounds ho hr (by omega)
  cases hop : s.seq.op <;> simp only [uopOf, hop] <;> rw [hop] at hl
  case idle | initH => rfl
  case check =>
    obtain ⟨hL, hM⟩ := ho.latches (busy_of_op hop nofun)
    simp [readsUnwritten, hL, hM]
  case loadW => exact readsUnwritten_loadW_of_ordered ho (by rw [hop]; rfl) _
  case expandW =>
    exact readsUnwritten_expandW_of_ordered ho (wordsDone_of_writesWord (.inr hop)) hl.1
  case initWork | serialize => simp [readsUnwritten, (ho.h (by rw [hop]; rfl)).1]
  case roundF | roundG | roundH | roundI =>
    simp only [readsUnwritten, round (by rw [hop]; rfl), Bool.not_true]
  case accum =>
    obtain ⟨hH, hK⟩ := ho.h (by rw [hop]; rfl)
    simp [readsUnwritten, hH, hK, ho.nb (by rw [hop]; rfl), ho.work (by rw [hop]; rfl)]

/-- In a state of the invariant the engine's turn records nothing. -/
theorem noteReads_uopOf_of_inv {s : State} (h : Inv s) : noteReads (uopOf s.seq) s = s :=
  noteReads_of _ _ (readsUnwritten_uopOf_of_inv h)

end Sys2Proof.Proofs
end

section
/-! PROOFS. Every step keeps the invariant: first the three shapes of the next state (idle, one uop further, idle
registers written), then the uops, the transactions and the reset input. -/

namespace Sys2Proof.Proofs

open Sys2Proof.Machine Sys2Proof.Safety Sys2Proof.Laws

/-- At (IDLE,0) the invariant is about the status, DIGEST, MSG and the record of unwritten reads only. -/
theorem inv_of_idle {s : State} (hs : s.seq = ⟨.idle, 0⟩) (hboth : ¬ (s.done = true ∧ s.err = true))
    (herr : s.err = false ↔ s.errCode = 0) (hcode : s.errCode.toNat ≤ 3)
    (hdigest : s.done = false → s.digest = Hash.zero) (hmem : Memory.wf s.msg = true)
    (hin : ∀ c ∈ s.msg, c.1 < s.params.msgBufBytes) (hu : s.unwrittenRead = false) : Inv s := by
  have hop : s.seq.op = .idle := by rw [hs]
  have hidle : ¬ s.busy = true := by simp [(idle_iff s).2 hop]
  refine ⟨by rw [hs]; rfl, fun hb => absurd hb hidle, hboth, herr, hcode, hdigest, fun hb => absurd hb hidle,
    ?_, ?_, hmem, hin, ordered_idle hop, hu⟩
  · rw [hop]; exact nofun
  · rw [hop]; exact nofun

/-- The status, the digest, the message and the latches stay when a uop changes the internal registers only, so
a busy state keeps the invariant if the new position is one for them. -/
theorem inv_of_uop {s : State} {p : Seq} {h : Hash} {r : Work} {w : Vector Word 80} {n k d : Nat}
    {m : Written} (hi : Inv s) (hb : s.busy = true) (hl : Machine.Seq.legal p = true)
    (hn : checkLength s = .ok n) (hk : inBlock p.op = true → k < n)
    (ho : Ordered { s with seq := p, h := h, work := r, w := w, nb := n, k := k, written := m, draws := d }) :
    Inv { s with seq := p, h := h, work := r, w := w, nb := n, k := k, written := m, draws := d } :=
  ⟨hl, fun _ => hi.busyClear hb, hi.notBoth, hi.errIff, hi.errCodeRange, hi.digestClear,
    fun _ => hi.latched hb, fun _ => hn, hk, hi.msgCanonical, hi.msgInside, ho, hi.noUnwrittenRead⟩

/-- In an idle state of the invariant the position is (IDLE,0). -/
theorem seq_of_inv_idle {s : State} (hi : Inv s) (hb : s.busy = false) : s.seq = ⟨.idle, 0⟩ := by
  have hop := (idle_iff s).1 hb
  have ht := ((legal_iff _).1 hi.seqLegal).2
  rw [hop] at ht
  have hs : s.seq = ⟨s.seq.op, s.seq.t⟩ := rfl
  rw [hs, hop, index_zero ht]

/-- The registers and the message that the host may write while idle leave the invariant as it is. -/
theorem inv_of_idleWrite {s : State} {c : Mode} {lo hi : Word} {mem : Memory} (h : Inv s)
    (hb : s.busy = false) (hmem : Memory.wf mem = true) (hin : ∀ x ∈ mem, x.1 < s.params.msgBufBytes) :
    Inv { s with ctrlMode := c, lenLo := lo, lenHi := hi, msg := mem } :=
  have hs := seq_of_inv_idle h hb
  inv_of_idle hs h.notBoth h.errIff h.errCodeRange h.digestClear hmem hin
    h.noUnwrittenRead

/-! ### The uops -/

/-- The errors that CHECK raises have the codes 1 to 3 (60_exceptions.md R104). -/
theorem errorCode_bounds (e : ErrorKind) : errorCode e ≠ 0 ∧ (errorCode e).toNat ≤ 3 := by
  cases e <;> decide

theorem inv_checkPass {s : State} (h : Inv s) (hp : s.seq = ⟨.check, 0⟩) {n : Nat}
    (hn : checkLength s = .ok n) : Inv (setSeq ⟨.initH, 0⟩ (writeNB n s)) := by
  have hb := busy_of_op (congrArg Seq.op hp) nofun
  have hL := h.ordered.latches hb
  exact inv_of_uop (s := s) h hb rfl hn nofun ⟨fun _ => hL, fun _ => rfl, nofun, nofun, nofun⟩

theorem inv_checkFail {s : State} (h : Inv s) (hp : s.seq = ⟨.check, 0⟩) (e : ErrorKind) :
    Inv (raiseError e s) := by
  have hb := busy_of_op (congrArg Seq.op hp) nofun
  obtain ⟨hdone, -, -⟩ := h.busyClear hb
  obtain ⟨hne, hle⟩ := errorCode_bounds e
  exact inv_of_idle rfl (by simp [hdone]) (by simpa using hne) hle h.digestClear h.msgCanonical h.msgInside
    h.noUnwrittenRead

theorem inv_initH {s : State} (h : Inv s) (hp : s.seq = ⟨.initH, 0⟩) :
    Inv (setSeq ⟨.loadW, 0⟩ (writeK 0 (writeH iv s))) := by
  have hb := busy_of_op (congrArg Seq.op hp) nofun
  have hc : pastCheck s.seq.op = true := by rw [hp]; rfl
  have hL := h.ordered.latches hb
  have hnb := h.ordered.nb hc
  exact inv_of_uop (s := s) h hb rfl (h.checked hc) (fun _ => nb_pos (h.checked hc))
    ⟨fun _ => hL, fun _ => hnb, fun _ => ⟨rfl, rfl⟩, nofun, nofun⟩

/-- A uop of a block that changes W and A–E only keeps the invariant if its marks are those the new position
needs: everything that came before the block has been written. -/
theorem inv_of_blockUop {s : State} {p : Seq} {r : Work} {w : Vector Word 80} {mr : Bool}
    {mw : Vector Bool 80} (h : Inv s) (hB : inBlock s.seq.op = true) (hl : Machine.Seq.legal p = true)
    (hw : ∀ t, t < wordsDone p → mw[t]?.getD false = true) (hr : inRounds p.op = true → mr = true) :
    Inv { s with seq := p, work := r, w := w, written := { s.written with work := mr, w := mw } } := by
  have hI := pastInit_of_inBlock hB
  have hc := pastCheck_of_pastInit hI
  have hb := busy_of_pastCheck hc
  have hL := h.ordered.latches hb
  have hnb := h.ordered.nb hc
  have hH := h.ordered.h hI
  exact inv_of_uop (s := s) h hb hl (h.checked hc) (fun _ => h.kBound hB)
    ⟨fun _ => hL, fun _ => hnb, fun _ => hH, hw, hr⟩

/-- LOAD_W and EXPAND_W, whatever word they write. -/
theorem inv_writeW {s : State} (h : Inv s) (hop : writesWord s.seq.op) (v : Word) :
    Inv (advance s.seq (writeW s.seq.t.toNat v s)) := by
  have hlast := ((legal_iff _).1 h.seqLegal).2
  have hmax := opLast_le s.seq.op
  have marked : ∀ j, j < wordsDone (nextSeq s.seq) → wWritten (writeW s.seq.t.toNat v s) j = true := by
    intro j hj
    rw [wordsDone_nextSeq_of_writesWord hop h.seqLegal] at hj
    rw [wWritten_writeW _ _ _ _ (by omega)]
    split
    · rfl
    · exact h.ordered.w j (by rw [wordsDone_of_writesWord hop]; omega)
  exact inv_of_blockUop (s := s) h (inBlock_of_writesWord hop) (legal_nextSeq h.seqLegal) marked
    fun hr => by simp [not_inRounds_nextSeq_of_writesWord hop] at hr

theorem inv_initWork {s : State} (h : Inv s) (hp : s.seq = ⟨.initWork, 0⟩) :
    Inv (setSeq ⟨.roundF, 0⟩ (writeWork (workOfHash s.h) s)) := by
  have hdone : wordsDone s.seq = 80 := by rw [hp]; rfl
  exact inv_of_blockUop (s := s) h (by rw [hp]; rfl) rfl (fun t ht => h.ordered.w t (hdone ▸ ht)) fun _ => rfl

/-- The ROUND uops, whatever they compute. -/
theorem inv_round {s : State} (h : Inv s) (hop : isRound s.seq.op) (r : Work) :
    Inv (advance s.seq (writeWork r s)) := by
  have hR := inRounds_of_isRound hop
  have hdone : wordsDone (nextSeq s.seq) = wordsDone s.seq := by
    rw [wordsDone_of_inRounds hR, wordsDone_of_inRounds (inRounds_nextSeq_of_isRound hop)]
  exact inv_of_blockUop (s := s) h (inBlock_of_inRounds hR) (legal_nextSeq h.seqLegal)
    (fun t ht => h.ordered.w t (hdone ▸ ht)) fun _ => rfl

/-- ACCUM goes on to the next block or to SERIALIZE; `k` is below NB, so the free value is not taken. -/
theorem inv_accum {s : State} (h : Inv s) (hp : s.seq = ⟨.accum, 0⟩) (x : Hash) :
    Inv (afterAccum (writeH x s)) := by
  have hB : inBlock s.seq.op = true := by rw [hp]; rfl
  have hI := pastInit_of_inBlock hB
  have hc := pastCheck_of_pastInit hI
  have hb := busy_of_pastCheck hc
  have hL := h.ordered.latches hb
  have hnb := h.ordered.nb hc
  have hkw := (h.ordered.h hI).2
  have hk := h.kBound hB
  rcases afterAccum_cases (writeH x s) with ⟨hlt, e⟩ | ⟨-, e⟩ | ⟨hgt, -⟩
  · rw [e]
    exact inv_of_uop (s := s) h hb rfl (h.checked hc) (fun _ => hlt)
      ⟨fun _ => hL, fun _ => hnb, fun _ => ⟨rfl, rfl⟩, nofun, nofun⟩
  · rw [e]
    exact inv_of_uop (s := s) h hb rfl (h.checked hc) nofun
      ⟨fun _ => hL, fun _ => hnb, fun _ => ⟨rfl, hkw⟩, nofun, nofun⟩
  · simp only [writeH_k, writeH_nb] at hgt
    omega

theorem inv_serialize {s : State} (h : Inv s) (hp : s.seq = ⟨.serialize, 0⟩) :
    Inv (setSeq ⟨.idle, 0⟩ (setDone (writeDigest s.h s))) := by
  obtain ⟨-, herr, -⟩ := h.busyClear (busy_of_op (congrArg Seq.op hp) nofun)
  exact inv_of_idle rfl (by simp [herr]) h.errIff h.errCodeRange nofun h.msgCanonical h.msgInside
    h.noUnwrittenRead

/-- Every uop that completes keeps the invariant. -/
theorem inv_engineStep {s t : State} (hi : Inv s) (h : EngineStep s t) : Inv t := by
  cases h with
  | idle hp => exact hi
  | checkPass n hp hn => exact inv_checkPass hi hp hn
  | checkFail e hp he => exact inv_checkFail hi hp e
  | initH hp => exact inv_initH hi hp
  | loadW i v hp hlast hk hv =>
    have hw := inv_writeW hi (.inl (congrArg Seq.op hp)) v
    rwa [hp] at hw
  | loadWFree i hp hlast hk =>
    have hlt := hi.kBound (by rw [hp]; rfl)
    omega
  | expandW i hp hfirst hlast =>
    have hw := inv_writeW hi (.inr (congrArg Seq.op hp)) (expandWord s.w i.toNat)
    rwa [hp] at hw
  | initWork hp => exact inv_initWork hi hp
  | round q hq hop hl => exact inv_round hi hop _
  | accum hp => exact inv_accum hi hp _
  | serialize hp => exact inv_serialize hi hp

/-! ### The host and the reset input -/

/-- START latches the length and the mode that it finds, and clears the status and the digest (R85). -/
theorem inv_start {s : State} (h : Inv s) (m : Mode) :
    Inv (startComputation m { s with ctrlMode := m }) :=
  ⟨rfl, fun _ => ⟨rfl, rfl, rfl⟩, nofun, ⟨fun _ => rfl, fun _ => rfl⟩, Nat.zero_le 3, fun _ => rfl,
    fun _ => ⟨rfl, rfl⟩, nofun, nofun, h.msgCanonical, h.msgInside,
    ⟨fun _ => ⟨rfl, rfl⟩, nofun, nofun, nofun, nofun⟩, h.noUnwrittenRead⟩

theorem inv_memWrite {s : State} (h : Inv s) (hb : s.busy = false) {i : Nat}
    (hj : i < s.params.msgBufBytes) (b : Byte) : Inv (memWrite i b s) := by
  refine inv_of_idleWrite (s := s) h hb (wf_set _ i b h.msgCanonical) fun c hc => ?_
  rcases mem_set _ _ _ _ hc with hold | hnew
  · exact h.msgInside c hold
  · omega

/-- An aligned word inside the buffer has all four bytes inside it (20_memory.md R34, R40). -/
theorem inv_writeBE32 {s : State} (h : Inv s) (hb : s.busy = false) {i : Nat} (h4 : i % 4 = 0)
    (hj : i < s.params.msgBufBytes) (v : Word) : Inv (writeBE32 i v s) := by
  refine inv_of_idleWrite (s := s) h hb (wf_writeBE32 s i v h.msgCanonical) fun c hc => ?_
  rcases mem_writeBE32 _ _ _ _ hc with hold | hnew
  · exact h.msgInside c hold
  · have hmod := msgBufBytes_mod s.params
    omega

/-- Every host transaction that completes keeps the invariant. -/
theorem inv_hostStep {i : Instr} {s t : State} (hi : Inv s) (h : HostStep i s t) : Inv t := by
  cases h with
  | unchanged => exact hi
  | read v => exact inv_congr s.schedule s.inputs (v :: s.returned) hi
  | mode v _ _ hb => exact inv_of_idleWrite (s := s) hi hb hi.msgCanonical hi.msgInside
  | start v => exact inv_start hi _
  | lenLo v _ hb => exact inv_of_idleWrite (s := s) hi hb hi.msgCanonical hi.msgInside
  | lenHi v _ hb => exact inv_of_idleWrite (s := s) hi hb hi.msgCanonical hi.msgInside
  | msg8 j b _ hb hj => exact inv_memWrite hi hb hj b
  | msg32 j v _ hb h4 hj => exact inv_writeBE32 hi hb h4 hj v

/-- The reset input leaves the invariant, whatever the state was. -/
theorem inv_assertReset {s : State} (hu : s.unwrittenRead = false) : Inv (assertReset s) :=
  inv_of_idle rfl nofun ⟨fun _ => rfl, fun _ => rfl⟩ (Nat.zero_le 3) (fun _ => rfl) rfl nofun hu

theorem inv_reset : Inv State.reset :=
  inv_of_idle rfl nofun ⟨fun _ => rfl, fun _ => rfl⟩ (Nat.zero_le 3) (fun _ => rfl) rfl nofun rfl

/-- Settles O51: the step is the engine's uop, a turn that passes, the host's transaction or the reset input, and
each keeps the invariant. -/
theorem everyStepKeepsTheInvariant : Obligations.EveryStepKeepsTheInvariant := by
  intro s t hi h
  have hturn : Inv (takeTurn s) := inv_congr s.schedule.tail s.inputs s.returned hi
  rcases step_next h with ⟨-, hstep⟩ | ⟨-, -, rfl⟩ | ⟨-, x, i, rest, -, -, hstep⟩ | ⟨-, rest, -, rfl⟩
  · have hnote : noteReads (uopOf s.seq) (takeTurn s) = takeTurn s := noteReads_uopOf_of_inv hturn
    rw [hnote] at hstep
    exact inv_engineStep hturn hstep
  · exact hturn
  · exact inv_hostStep (inv_congr s.schedule.tail rest s.returned hi) hstep
  · exact inv_assertReset hi.noUnwrittenRead

/-- Settles O50: reset leaves an idle state with clear status, and at IDLE nothing has to be computed. -/
theorem resetSatisfiesTheInvariant : Obligations.ResetSatisfiesTheInvariant :=
  ⟨inv_reset, computed_idle rfl⟩

end Sys2Proof.Proofs
end

section
/-! PROOFS. What each agent's step leaves unchanged: the message, its length and its mode, DIGEST and the record
of unwritten reads. -/

namespace Sys2Proof.Proofs

open Sys2Proof.Machine Sys2Proof.Safety Sys2Proof.Laws

/-- What a running computation needs of the host's side: MSG and its epoch, LEN, CTRL.MODE and the latches. -/
def MessageKept (s t : State) : Prop :=
  t.msg = s.msg ∧ t.epoch = s.epoch ∧ t.lenLo = s.lenLo ∧ t.lenHi = s.lenHi ∧ t.ctrlMode = s.ctrlMode
    ∧ t.lLat = s.lLat ∧ t.modeLat = s.modeLat

/-- No uop writes them (20_memory.md R35, 10_state.md R21). -/
theorem engineStep_message {s t : State} (h : EngineStep s t) : MessageKept s t := by
  cases h with
  | accum hp =>
    rcases afterAccum_cases (writeH (feedForward s.h s.work) s) with ⟨-, e⟩ | ⟨-, e⟩ | ⟨-, e⟩ <;>
      simp [MessageKept, e]
  | _ => simp [MessageKept]

/-- Of the uops only SERIALIZE changes DIGEST (10_state.md R26). -/
theorem engineStep_digest {s t : State} (h : EngineStep s t) (hd : t.digest ≠ s.digest) :
    s.seq = ⟨.serialize, 0⟩ ∧ t.digest = s.h ∧ t.done = true := by
  cases h with
  | serialize hp => exact ⟨hp, rfl, rfl⟩
  | accum hp =>
    rcases afterAccum_cases (writeH (feedForward s.h s.work) s) with ⟨-, e⟩ | ⟨-, e⟩ | ⟨-, e⟩ <;>
      simp [e] at hd
  | _ => exact absurd rfl hd

/-! ### The transactions -/

/-- No host transaction writes H, A–E, W, NB or k (10_state.md R30). -/
theorem hostStep_internal {i : Instr} {s t : State} (h : HostStep i s t) :
    t.h = s.h ∧ t.work = s.work ∧ t.w = s.w ∧ t.nb = s.nb ∧ t.k = s.k := by
  cases h <;> simp

/-- No host transaction touches the parameters, the queues, the epoch, the draws or the record of unwritten reads. -/
theorem hostStep_model {i : Instr} {s t : State} (h : HostStep i s t) :
    t.params = s.params ∧ t.inputs = s.inputs ∧ t.schedule = s.schedule ∧ t.epoch = s.epoch
      ∧ t.draws = s.draws ∧ t.unwrittenRead = s.unwrittenRead := by
  cases h <;> simp

theorem hostStep_lenLo {i : Instr} {s t : State} (h : HostStep i s t) (hne : t.lenLo ≠ s.lenLo) :
    ∃ v, i = .wrLenLo v := by
  cases h with
  | lenLo v hi => exact ⟨v, hi⟩
  | _ => exact absurd rfl hne

theorem hostStep_lenHi {i : Instr} {s t : State} (h : HostStep i s t) (hne : t.lenHi ≠ s.lenHi) :
    ∃ v, i = .wrLenHi v := by
  cases h with
  | lenHi v hi => exact ⟨v, hi⟩
  | _ => exact absurd rfl hne

theorem hostStep_ctrlMode {i : Instr} {s t : State} (h : HostStep i s t) (hne : t.ctrlMode ≠ s.ctrlMode) :
    ∃ v, i = .wrCtrl v := by
  cases h with
  | mode v hi | start v hi => exact ⟨v, hi⟩
  | _ => exact absurd rfl hne

/-- Of the host transactions only the two stores write MSG. -/
theorem hostStep_msg {i : Instr} {s t : State} (h : HostStep i s t) (h8 : ∀ j b, i ≠ .wrMsg8 j b)
    (h32 : ∀ j v, i ≠ .wrMsg32 j v) : t.msg = s.msg := by
  cases h with
  | msg8 j b hi => exact absurd hi (h8 j b)
  | msg32 j v hi => exact absurd hi (h32 j v)
  | _ => rfl

/-- Equal messages of one epoch read alike. -/
theorem msgByte_congr {s t : State} (hm : t.msg = s.msg) (he : t.epoch = s.epoch) (a : Nat) :
    msgByte t a = msgByte s a := by
  simp only [msgByte, unwrittenByte, hm, he]

/-- WR_MSG8 changes at most the byte at its operand's index (44_host_interface.md R95). -/
theorem hostStep_wrMsg8 {j : BitVec 24} {b : Byte} {s t : State} (h : HostStep (.wrMsg8 j b) s t) {a : Nat}
    (ha : a ≠ j.toNat) : msgByte t a = msgByte s a := by
  cases h with
  | msg8 _ _ hi => cases hi; exact msgByte_memWrite_ne s _ b a ha
  | msg32 _ _ hi => cases hi
  | _ => exact msgByte_congr rfl rfl a

/-- WR_MSG32 changes at most the four bytes from its operand's index on (R97). -/
theorem hostStep_wrMsg32 {j : BitVec 24} {v : Word} {s t : State} (h : HostStep (.wrMsg32 j v) s t) {a : Nat}
    (ha : a < j.toNat ∨ j.toNat + 4 ≤ a) : msgByte t a = msgByte s a := by
  cases h with
  | msg8 _ _ hi => cases hi
  | msg32 _ _ hi => cases hi; exact msgByte_writeBE32_ne s _ v a ha
  | _ => exact msgByte_congr rfl rfl a

/-- What of the registers the host reaches only by a START: the position, the latches, the marks, the status and
DIGEST. -/
def StartFieldsKept (s t : State) : Prop :=
  t.seq = s.seq ∧ t.lLat = s.lLat ∧ t.modeLat = s.modeLat ∧ t.written = s.written ∧ t.done = s.done
    ∧ t.err = s.err ∧ t.errCode = s.errCode ∧ t.digest = s.digest

/-- A transaction keeps those registers, or it is a START while idle, which sets DIGEST to 0 (R85). -/
theorem hostStep_start {i : Instr} {s t : State} (h : HostStep i s t) :
    StartFieldsKept s t ∨
      ∃ v, i = .wrCtrl v ∧ v.getLsbD 0 = true ∧ s.busy = false ∧ t.digest = Hash.zero := by
  cases h with
  | start v hi h0 hb => exact .inr ⟨v, hi, h0, hb, startComputation_digest _ _⟩
  | _ => exact .inl (by simp [StartFieldsKept])

/-- A transaction that returns a value changes nothing else. -/
theorem hostStep_returned {i : Instr} {s t : State} (h : HostStep i s t) (hne : t.returned ≠ s.returned) :
    ∃ v, t = { s with returned := v :: s.returned } := by
  cases h with
  | read v => exact ⟨v, rfl⟩
  | _ => exact absurd rfl hne

/-! ### Reads and writes -/

/-- The instruction is a read of the host. -/
def isRead : Instr → Bool
  | .rdCtrl | .rdStatus | .rdLenLo | .rdLenHi | .rdDigest0 | .rdDigest1 | .rdDigest2 | .rdDigest3 | .rdDigest4
  | .rdMsg8 _ | .rdMsg32 _ | .rdRsvd8 _ | .rdRsvd32 _ => true
  | _ => false

theorem isRead_of_byWr {d : BitVec 32} {rd wr i : Instr} (hr : isRead rd = true) (hw : isRead wr = false)
    (h : byWr d rd wr = some i) : isRead i = !descWr d := by
  cases hd : descWr d <;> simp only [byWr, hd, Option.some.injEq] at h <;> subst h
  · exact hr
  · exact hw

theorem isRead_of_decodeReg32 {d : BitVec 32} {v : Word} {i : Instr} (h : decodeReg32 d v = some i) :
    isRead i = !descWr d := by
  simp only [decodeReg32] at h
  split at h <;> exact isRead_of_byWr rfl rfl h

/-- A descriptor decodes to a read exactly when its WR bit is 0 (30_encoding.md R50). -/
theorem isRead_of_decodeHost {x : Txn} {i : Instr} (h : decodeHost x = some i) :
    isRead i = !descWr x.desc := by
  simp only [decodeHost] at h
  split at h
  · cases h
  split at h
  · cases h
  split at h
  · cases h
  split at h
  · split at h <;> exact isRead_of_byWr rfl rfl h
  · split at h
    · exact isRead_of_decodeReg32 h
    · exact isRead_of_byWr rfl rfl h

/-- A write that is ignored while BUSY returns nothing if its effect when idle returns nothing. -/
theorem returned_unlessBusy {f : State → State} {s : State} (h : (f s).returned = s.returned) :
    (unlessBusy f s).returned = s.returned := by
  simp only [unlessBusy]
  split
  · rfl
  · exact h

@[simp] theorem writeCtrl_returned (v : Word) (s : State) : (writeCtrl v s).returned = s.returned := by
  simp only [writeCtrl]
  split <;> rfl

@[simp] theorem writeMsg8_returned (i : Nat) (b : Byte) (s : State) :
    (writeMsg8 i b s).returned = s.returned := by
  simp only [writeMsg8]
  split <;> rfl

@[simp] theorem writeMsg32_returned (i : Nat) (v : Word) (s : State) :
    (writeMsg32 i v s).returned = s.returned := by
  simp only [writeMsg32]
  split <;> rfl

/-- A write returns no value to the host. -/
theorem exec_write_returned {i : Instr} {s t : State} (hu : isUop i = false) (hr : isRead i = false)
    (h : exec i s = .next t) : t.returned = s.returned := by
  cases i <;> cases hu <;> cases hr
  case wrCtrl v => cases h; exact returned_unlessBusy (writeCtrl_returned v s)
  case wrLenLo | wrLenHi => cases h; exact returned_unlessBusy rfl
  case wrMsg8 j b => cases h; exact returned_unlessBusy (writeMsg8_returned _ b s)
  case wrMsg32 j v =>
    obtain ⟨-, h⟩ := ifSupported_next h
    cases h; exact returned_unlessBusy (writeMsg32_returned _ v s)
  case wrRsvd8 | wrRsvd32 => obtain ⟨-, h⟩ := ifSupported_next h; cases h; rfl
  case wrStatus | wrDigest0 | wrDigest1 | wrDigest2 | wrDigest3 | wrDigest4 => cases h; rfl

/-- A transaction that returns a value has WR = 0. -/
theorem descWr_of_returned {x : Txn} {i : Instr} {s t : State} (hd : decodeHost x = some i)
    (h : exec i s = .next t) (hne : t.returned ≠ s.returned) : descWr x.desc = false := by
  by_contra hw
  have hread : isRead i = false := by
    rw [isRead_of_decodeHost hd, Bool.eq_true_of_not_eq_false hw]; rfl
  exact hne (exec_write_returned (decodeHost_not_uop hd) hread h)

/-! ### The statements -/

/-- Settles O42: each clause is the frame of one group of registers over what a transaction can do. -/
theorem transactionsLeaveTheRestUnchanged : Obligations.TransactionsLeaveTheRestUnchanged := by
  intro x i s t hd h
  have hstep := exec_host_next hd h
  obtain ⟨hh, hwork, hw, hnb, hk⟩ := hostStep_internal hstep
  obtain ⟨hparams, hinputs, hschedule, hepoch, hdraws, -⟩ := hostStep_model hstep
  refine ⟨hh, hwork, hw, hnb, hk, hparams, hinputs, hschedule, hepoch, hdraws, hostStep_lenLo hstep,
    hostStep_lenHi hstep, ?wrMsg8, ?wrMsg32, hostStep_msg hstep, hostStep_ctrlMode hstep, ?start,
    fun hne => ⟨descWr_of_returned hd h hne, hostStep_returned hstep hne⟩⟩
  case wrMsg8 => rintro j b rfl a ha; exact hostStep_wrMsg8 hstep ha
  case wrMsg32 => rintro j v rfl a ha; exact hostStep_wrMsg32 hstep ha
  case start =>
    intro hne
    rcases hostStep_start hstep with ⟨hseq, hL, hM, hmarks, hdone, herr, hcode, hdigest⟩ | ⟨v, hi, h0, -⟩
    · simp [hseq, hL, hM, hmarks, hdone, herr, hcode, hdigest] at hne
    · exact ⟨v, hi, h0⟩

/-- Settles O43: of the uops only SERIALIZE writes DIGEST, of the transactions only a START while idle, and the
reset input clears it. -/
theorem digestChangesOnlyByThreeEvents : Obligations.DigestChangesOnlyByThreeEvents := by
  intro s t h hne
  rcases step_next h with ⟨ha, hstep⟩ | ⟨-, -, rfl⟩ | ⟨ha, x, i, rest, hx, hd, hstep⟩ | ⟨ha, rest, hx, rfl⟩
  · obtain ⟨hp, hdigest, hdone⟩ := engineStep_digest hstep hne
    exact .inl ⟨ha, hp, hdigest, hdone⟩
  · exact absurd rfl hne
  · rcases hostStep_start hstep with ⟨-, -, -, -, -, -, -, hdigest⟩ | ⟨v, rfl, h0, hb, hzero⟩
    · exact absurd hdigest hne
    · exact .inr ⟨ha, .inr ⟨x, v, by rw [hx]; rfl, hd, h0, hb⟩, hzero⟩
  · exact .inr ⟨ha, .inl (by rw [hx]; rfl), rfl⟩

/-- Settles O46: the engine writes none of these registers, and the host's writes are ignored while BUSY. -/
theorem runningComputationIsSealed : Obligations.RunningComputationIsSealed := by
  intro s t hb h hreset
  have sealed : MessageKept s t := by
    rcases step_next h with ⟨-, hstep⟩ | ⟨-, -, rfl⟩ | ⟨-, x, i, rest, -, -, hstep⟩ | ⟨ha, rest, hx, -⟩
    · exact engineStep_message (s := noteReads (uopOf s.seq) (takeTurn s)) hstep
    · exact ⟨rfl, rfl, rfl, rfl, rfl, rfl, rfl⟩
    · obtain ⟨r, rfl⟩ := hostStep_busy (s := { takeTurn s with inputs := rest }) hb hstep
      exact ⟨rfl, rfl, rfl, rfl, rfl, rfl, rfl⟩
    · exact absurd ⟨ha, by rw [hx]; rfl⟩ hreset
  obtain ⟨hmsg, hepoch, hlo, hhi, hmode, hL, hM⟩ := sealed
  exact ⟨hmsg, hepoch, hlo, hhi, hmode, hL, hM, paddedMessage_congr hmsg hepoch hL hM⟩

/-- The four words EXPAND_W reads, by their marks. -/
theorem readsUnwritten_expandW_iff (s : State) {t : BitVec 7} (hlo : 16 ≤ t.toNat) (hhi : t.toNat ≤ 79) :
    readsUnwritten (.expandW t) s = true ↔ s.written.w[t.toNat - 3]? = some false
      ∨ s.written.w[t.toNat - 8]? = some false ∨ s.written.w[t.toNat - 14]? = some false
      ∨ s.written.w[t.toNat - 16]? = some false := by
  have hmark (n : Nat) := wWritten_eq_false_iff s (show t.toNat - n < 80 by omega)
  simp only [readsUnwritten, Bool.not_eq_true', Bool.and_eq_false_iff, hmark, or_assoc]

/-- What every ROUND uop reads, by its marks. -/
theorem readsRound_iff (s : State) {t : BitVec 7} (ht : t.toNat ≤ 79) :
    (!(s.written.work && wWritten s t.toNat)) = true ↔
      s.written.work = false ∨ s.written.w[t.toNat]? = some false := by
  simp only [Bool.not_eq_true', Bool.and_eq_false_iff,
    wWritten_eq_false_iff s (show t.toNat < 80 by omega)]

/-- A step of the engine records exactly its uop's read of an unwritten register. -/
theorem unwrittenRead_of_engine {s t : State} (ha : nextAgent s = .engine) (h : step s = .next t) :
    t.unwrittenRead = (s.unwrittenRead || readsUnwritten (uopOf s.seq) s) := by
  rcases step_next h with ⟨-, hstep⟩ | ⟨hh, -⟩ | ⟨hh, -⟩ | ⟨hh, -⟩
  · exact (engineStep_inputs hstep).2.2
  all_goals rw [ha] at hh; cases hh

/-- A step of the host leaves the record as it is, the reset input included. -/
theorem unwrittenRead_of_host {s t : State} (ha : nextAgent s = .host) (h : step s = .next t) :
    t.unwrittenRead = s.unwrittenRead := by
  rcases step_next h with ⟨he, -⟩ | ⟨-, -, rfl⟩ | ⟨-, x, i, rest, -, -, hstep⟩ | ⟨-, rest, -, rfl⟩
  · rw [ha] at he; cases he
  · rfl
  · obtain ⟨-, -, -, -, -, hu⟩ := hostStep_model hstep
    exact hu
  · rfl

/-- Settles O52: the reads by definition, the record by what a step can do, and that no run makes such a read by
the order of writes in the invariant. -/
theorem unwrittenReadsAreRecordedAndNoRunMakesOne :
    Obligations.UnwrittenReadsAreRecordedAndNoRunMakesOne := by
  refine ⟨fun s t => ⟨?check, ?loadW, readsUnwritten_expandW_iff s, ?initWork, ?round, ?accum, ?serialize⟩,
    ?engine, fun s t ha h => unwrittenRead_of_host ha h, ?run⟩
  case check | loadW | accum => simp only [readsUnwritten, Bool.not_eq_true', Bool.and_eq_false_iff, or_assoc]
  case initWork | serialize => simp only [readsUnwritten, Bool.not_eq_true']
  case round =>
    intro ht i hi
    simp only [List.mem_cons, List.not_mem_nil, or_false] at hi
    rcases hi with rfl | rfl | rfl | rfl <;> exact readsRound_iff s ht
  case engine =>
    intro s t i ha hd h
    rw [eq_uopOf_of_decodeUop hd]
    exact unwrittenRead_of_engine ha h
  case run =>
    intro s i hinv hd
    rw [eq_uopOf_of_decodeUop hd]
    exact readsUnwritten_uopOf_of_inv hinv

end Sys2Proof.Proofs
end

section
/-! PROOFS. The statements about reset, the turns and the writes that BUSY ignores. -/

namespace Sys2Proof.Proofs

open Sys2Proof.Machine Sys2Proof.Laws

/-- Round t takes the constant of its quartile, `t div 20` (42_alu_rounds.md R69). -/
theorem ksel_eq_rom {t : Nat} (ht : t < 80) :
    some (ksel t) = ([0x5A827999, 0x6ED9EBA1, 0x8F1BBCDC, 0xCA62C1D6] : List Word)[t / 20]? := by
  simp only [ksel, quartileOf]
  split_ifs with hf hg hh
  · rw [show t / 20 = 0 by omega]; rfl
  · rw [show t / 20 = 1 by omega]; rfl
  · rw [show t / 20 = 2 by omega]; rfl
  · rw [show t / 20 = 3 by omega]; rfl

/-- Settles O1: each clause is a row of R32, read off the reset state; round t's constant is that of its
quartile. -/
theorem resetLeavesTheResetValues : Obligations.ResetLeavesTheResetValues :=
  ⟨rfl, rfl, rfl, rfl, rfl, rfl, rfl, rfl, rfl, by decide, by decide, rfl, fun _ => ⟨rfl, rfl⟩, rfl, rfl,
    fun _ => ksel_eq_rom⟩

theorem step_of_engine {s : State} (ha : nextAgent s = .engine) : step s = runUop s.seq.word (takeTurn s) := by
  simp only [step, ha, engineTurn, takeTurn_seq]

theorem step_of_host {s : State} (ha : nextAgent s = .host) : step s = hostTurn (takeTurn s) := by
  simp only [step, ha]

theorem runUop_of_decode {u : BitVec 16} {i : Instr} (h : decodeUop u = some i) (s : State) :
    runUop u s = exec i (noteReads i s) := by simp only [runUop, h]

theorem runUop_invalid {u : BitVec 16} (h : decodeUop u = none) (s : State) :
    runUop u s = .refused (.invalidUop u) := by simp only [runUop, h]

theorem hostTurn_txn {s : State} {x : Txn} {rest : List Input} (h : s.inputs = .txn x :: rest) :
    hostTurn s = runTxn x { s with inputs := rest } := by simp only [hostTurn, h]

theorem hostTurn_nothing {s : State} (h : s.inputs = []) : hostTurn s = .next s := by
  simp only [hostTurn, h]

theorem runTxn_of_decode {x : Txn} {i : Instr} (h : decodeHost x = some i) (s : State) :
    runTxn x s = exec i s := by simp only [runTxn, h]

theorem runTxn_unsupported {x : Txn} (h : decodeHost x = none) (s : State) :
    runTxn x s = .refused (.unsupported x.desc) := by simp only [runTxn, h]

/-- Settles O3: the engine's turn runs the word of the position, which decodes or is refused. -/
theorem engineTurnRunsTheNamedUop : Obligations.EngineTurnRunsTheNamedUop := by
  intro s ha
  rw [step_of_engine ha]
  exact ⟨fun i hd => runUop_of_decode hd _, fun hd => runUop_invalid hd _⟩

/-- Settles O4: the host's turn takes the oldest input off the queue and runs it if it decodes. -/
theorem hostTurnRunsTheOldestTransaction : Obligations.HostTurnRunsTheOldestTransaction := by
  intro s ha
  rw [step_of_host ha]
  refine ⟨fun x rest i hx hd => ?_, fun x rest hx hd => ?_, fun hx => hostTurn_nothing hx⟩
  · exact (hostTurn_txn (s := takeTurn s) hx).trans (runTxn_of_decode hd _)
  · exact (hostTurn_txn (s := takeTurn s) hx).trans (runTxn_unsupported hd _)

/-- Settles O7: the cases of `nextAgent`, a schedule that goes on, BUSY, and an input that waits. -/
theorem scheduleDecidesWhoMoves : Obligations.ScheduleDecidesWhoMoves := by
  intro s
  refine ⟨fun a rest hs => ?_, fun hs hb => ?_, fun hs hb hin => ?_⟩
  · simp only [nextAgent, hs]
  · simp only [nextAgent, hs, hb, if_true]
  · simp [nextAgent, hs, hb, hin]

/-- Settles O40: each of the five writes is under the guard that R27 puts on it. -/
theorem writesWhileBusyAreIgnored : Obligations.WritesWhileBusyAreIgnored := by
  intro s v b i hb
  have ignored (f : State → State) : Host.Outcome.next (unlessBusy f s) = (.next s : Result) :=
    congrArg _ (unlessBusy_busy f s hb)
  refine ⟨ignored _, ignored _, ignored _, ignored _, fun h4 => ?_⟩
  have hwf : (Instr.wrMsg32 i v).wf = true := by simp [Instr.wf, h4]
  exact (ifSupported_of _ _ hwf).trans (ignored _)

end Sys2Proof.Proofs
end

section
/-! PROOFS. The host's accesses of MSG, inside the buffer, and that their widths agree on the byte order. -/

namespace Sys2Proof.Proofs

open Sys2Proof.Machine Sys2Proof.Laws

/-! ### The four accesses inside the buffer (44_host_interface.md R94 to R97) -/

theorem exec_rdMsg8_inside {s : State} {i : BitVec 24} (hi : i.toNat < s.params.msgBufBytes) :
    exec (.rdMsg8 i) s = .next (returnValue (.byte (msgByte s i.toNat)) s) := by
  simp only [exec, execRdMsg8, hi, memRead_inside, if_true]

theorem exec_wrMsg8_inside {s : State} {i : BitVec 24} (hb : s.busy = false)
    (hi : i.toNat < s.params.msgBufBytes) (b : Byte) :
    exec (.wrMsg8 i b) s = .next (memWrite i.toNat b s) := by
  simp only [exec, execWrMsg8, unlessBusy_idle _ _ hb, writeMsg8, hi, if_true]

/-- The word that stands in MSG from index i on (20_memory.md R39). -/
def msgWord (s : State) (i : Nat) : Word :=
  be32 (msgByte s i) (msgByte s (i + 1)) (msgByte s (i + 2)) (msgByte s (i + 3))

/-- An aligned word that begins inside the buffer lies inside it, as the capacity is a multiple of 64 (R40). -/
theorem readBE32_memRead {s : State} {i : Nat} (h4 : i % 4 = 0) (hi : i < s.params.msgBufBytes) :
    readBE32 (memRead s) i = .ok (msgWord s i) := by
  have hmod := msgBufBytes_mod s.params
  exact readBE32_ok _ _ _ _ _ _ (memRead_inside s _ hi) (memRead_inside s _ (by omega))
    (memRead_inside s _ (by omega)) (memRead_inside s _ (by omega))

theorem exec_rdMsg32_inside {s : State} {i : BitVec 24} (h4 : i.toNat % 4 = 0)
    (hi : i.toNat < s.params.msgBufBytes) :
    exec (.rdMsg32 i) s = .next (returnValue (.word (msgWord s i.toNat)) s) := by
  have hwf : (Instr.rdMsg32 i).wf = true := by simp [Instr.wf, h4]
  simp only [exec, execRdMsg32, ifSupported_of _ _ hwf, hi, readBE32_memRead h4, if_true]

theorem exec_wrMsg32_inside {s : State} {i : BitVec 24} (hb : s.busy = false) (h4 : i.toNat % 4 = 0)
    (hi : i.toNat < s.params.msgBufBytes) (v : Word) :
    exec (.wrMsg32 i v) s = .next (writeBE32 i.toNat v s) := by
  have hwf : (Instr.wrMsg32 i v).wf = true := by simp [Instr.wf, h4]
  simp only [exec, execWrMsg32, ifSupported_of _ _ hwf, unlessBusy_idle _ _ hb, writeMsg32, hi, if_true]

/-! ### The byte order -/

/-- The first byte of a big-endian word is its bits 31:24 (00_scope.md R10). -/
theorem extract_be32_top (b0 b1 b2 b3 : Byte) : (be32 b0 b1 b2 b3).extractLsb' 24 8 = b0 :=
  (extract_append_hi (k := 16) _ _).trans ((extract_append_hi (k := 8) _ _).trans
    ((extract_append_hi (k := 0) _ _).trans (extract_all _)))

/-- A word written reads back whole. -/
theorem msgWord_writeBE32 {s : State} (hmem : Memory.wf s.msg = true) (i : Nat) (v : Word) :
    msgWord (writeBE32 i v s) i = v := by
  simp [msgWord, msgByte_writeBE32 _ _ _ _ hmem, be32_byteOf]

/-- The byte at the lowest index of a word written is its bits 31:24. -/
theorem msgByte_writeBE32_first {s : State} (hmem : Memory.wf s.msg = true) (i : Nat) (v : Word) :
    msgByte (writeBE32 i v s) i = v.extractLsb' 24 8 := by
  simp [msgByte_writeBE32 _ _ _ _ hmem, byteOf]

/-- After a byte is written, the word that begins there has it in bits 31:24. -/
theorem extract_msgWord_memWrite {s : State} (hmem : Memory.wf s.msg = true) (i : Nat) (b : Byte) :
    (msgWord (memWrite i b s) i).extractLsb' 24 8 = b := by
  simp [msgWord, extract_be32_top, msgByte_memWrite _ _ _ _ hmem]

/-- Settles O39: each access is one operation on MSG, and the store's value is what the load forms. -/
theorem mixedWidthAccessesAgree : Obligations.MixedWidthAccessesAgree := by
  intro s i v b hmem hidle h4 hi
  have hb := (idle_iff s).2 hidle
  refine ⟨⟨_, _, exec_wrMsg32_inside hb h4 hi v, exec_rdMsg32_inside h4 hi, ?_⟩,
    ⟨_, _, exec_wrMsg32_inside hb h4 hi v, exec_rdMsg8_inside hi, ?_⟩,
    ⟨_, _, _, exec_wrMsg8_inside hb hi b, exec_rdMsg32_inside h4 hi, rfl, extract_msgWord_memWrite hmem _ b⟩⟩
  · rw [returnValue_returned, writeBE32_returned, msgWord_writeBE32 hmem]
  · rw [returnValue_returned, writeBE32_returned, msgByte_writeBE32_first hmem]

end Sys2Proof.Proofs
end

section
/-! PROOFS. What each uop writes, whatever position the state holds, and so what it leaves unchanged. -/

namespace Sys2Proof.Proofs

open Sys2Proof.Machine Sys2Proof.Laws

/-- The uop `i` takes `s` to a state that differs in the position, in the registers `i` writes, in their marks
and in the count of free values only; the values written are left open. -/
inductive UopWrites (s : State) : Instr → State → Prop where
  | nothing : UopWrites s .idle s
  | check (p : Seq) (n : Nat) (e : Bool) (c : BitVec 4) (m : Written) :
      UopWrites s .check { s with seq := p, nb := n, err := e, errCode := c, written := m }
  | hash {i : Instr} (hi : i = .initH ∨ i = .accum) (p : Seq) (h : Hash) (k : Nat) (m : Written) (d : Nat) :
      UopWrites s i { s with seq := p, h := h, k := k, written := m, draws := d }
  | word {i : Instr} (q : BitVec 7) (hi : i = .loadW q ∨ i = .expandW q) (p : Seq) (v : Word) (m : Written)
      (d : Nat) :
      UopWrites s i { s with seq := p, w := s.w.setIfInBounds q.toNat v, written := m, draws := d }
  | work {i : Instr}
      (hi : i = .initWork ∨ ∃ q, i = .roundF q ∨ i = .roundG q ∨ i = .roundH q ∨ i = .roundI q)
      (p : Seq) (r : Work) (m : Written) : UopWrites s i { s with seq := p, work := r, written := m }
  | digest (p : Seq) (x : Hash) (b : Bool) :
      UopWrites s .serialize { s with seq := p, digest := x, done := b }

theorem uopWrites_of_execRound {i : Instr} {q : Quartile} {p : Seq} {s t : State}
    (hi : ∃ n, i = .roundF n ∨ i = .roundG n ∨ i = .roundH n ∨ i = .roundI n)
    (h : execRound q p s = .next t) : UopWrites s i t := by
  obtain ⟨-, h⟩ := ifLegal_next h
  cases h; exact .work (.inr hi) _ _ _

/-- Every uop that completes writes its own registers only. -/
theorem exec_uop_next {i : Instr} {s t : State} (hu : isUop i = true) (h : exec i s = .next t) :
    UopWrites s i t := by
  cases i <;> cases hu
  case idle => cases h; exact .nothing
  case check =>
    simp only [exec, execCheck] at h
    split at h <;> cases h <;> exact .check _ _ _ _ _
  case initH => cases h; exact .hash (.inl rfl) _ _ _ _ _
  case accum =>
    cases h
    rcases afterAccum_cases (writeH (feedForward s.h s.work) s) with ⟨-, e⟩ | ⟨-, e⟩ | ⟨-, e⟩ <;>
      rw [e] <;> exact .hash (.inr rfl) _ _ _ _ _
  case loadW q =>
    obtain ⟨-, h⟩ := ifLegal_next h
    split at h
    · split at h <;> cases h
      exact .word q (.inl rfl) _ _ _ _
    · cases h; exact .word q (.inl rfl) _ _ _ _
  case expandW q =>
    obtain ⟨-, h⟩ := ifLegal_next h
    cases h; exact .word q (.inr rfl) _ _ _ _
  case initWork => cases h; exact .work (.inl rfl) _ _ _
  case roundF q => exact uopWrites_of_execRound ⟨q, .inl rfl⟩ h
  case roundG q => exact uopWrites_of_execRound ⟨q, .inr (.inl rfl)⟩ h
  case roundH q => exact uopWrites_of_execRound ⟨q, .inr (.inr (.inl rfl))⟩ h
  case roundI q => exact uopWrites_of_execRound ⟨q, .inr (.inr (.inr rfl))⟩ h
  case serialize => cases h; exact .digest _ _ _

section
variable {i : Instr} {s t : State}

/-- No uop writes the message, its length or its mode (20_memory.md R35, 10_state.md R21). -/
theorem uopWrites_message (h : UopWrites s i t) : MessageKept s t := by
  cases h <;> simp [MessageKept]

/-- No uop touches the parameters, the queues or the values returned. -/
theorem uopWrites_model (h : UopWrites s i t) :
    t.params = s.params ∧ t.inputs = s.inputs ∧ t.schedule = s.schedule ∧ t.returned = s.returned := by
  cases h <;> simp

theorem uopWrites_hash (h : UopWrites s i t) (hne : t.h ≠ s.h ∨ t.k ≠ s.k) : i = .initH ∨ i = .accum := by
  cases h with
  | hash hi => exact hi
  | _ => exact absurd hne (by simp)

theorem uopWrites_work (h : UopWrites s i t) (hne : t.work ≠ s.work) :
    i = .initWork ∨ ∃ q, i = .roundF q ∨ i = .roundG q ∨ i = .roundH q ∨ i = .roundI q := by
  cases h with
  | work hi => exact hi
  | _ => exact absurd rfl hne

theorem uopWrites_w (h : UopWrites s i t) {n : Nat} (hne : t.w[n]? ≠ s.w[n]?) :
    ∃ q : BitVec 7, q.toNat = n ∧ (i = .loadW q ∨ i = .expandW q) := by
  cases h with
  | word q hi p v => exact ⟨q, eq_of_setIfInBounds_ne s.w _ n v hne, hi⟩
  | _ => exact absurd rfl hne

theorem uopWrites_check (h : UopWrites s i t)
    (hne : t.nb ≠ s.nb ∨ t.err ≠ s.err ∨ t.errCode ≠ s.errCode) : i = .check := by
  cases h with
  | check => rfl
  | _ => exact absurd hne (by simp)

theorem uopWrites_digest (h : UopWrites s i t) (hne : t.digest ≠ s.digest ∨ t.done ≠ s.done) :
    i = .serialize := by
  cases h with
  | digest => rfl
  | _ => exact absurd hne (by simp)

end

/-- Settles O41: each clause is the frame of one group of registers over what a uop can write. -/
theorem uopsLeaveTheRestUnchanged : Obligations.UopsLeaveTheRestUnchanged := by
  intro u i s t hd h
  have hw := exec_uop_next (decodeUop_isUop hd) h
  obtain ⟨hmsg, hepoch, hlo, hhi, hmode, hL, hM⟩ := uopWrites_message hw
  obtain ⟨hparams, hinputs, hschedule, hreturned⟩ := uopWrites_model hw
  exact ⟨msgByte_congr hmsg hepoch, hlo, hhi, hmode, hL, hM, hparams, hinputs, hschedule, hreturned, hepoch,
    fun hne => uopWrites_hash hw (.inl hne), uopWrites_work hw, fun _ => uopWrites_w hw,
    fun hne => uopWrites_check hw (.inl hne), fun hne => uopWrites_hash hw (.inr hne), uopWrites_digest hw,
    fun hne => uopWrites_check hw (.inr hne)⟩

end Sys2Proof.Proofs
end

section
/-! PROOFS. The padded stream reads the message below its length only. -/

namespace Sys2Proof.Proofs

open Sys2Proof.Machine Sys2Proof.Laws

theorem memRead_congr {s t : State} {i : Nat} (hp : t.params = s.params) (h : msgByte t i = msgByte s i) :
    memRead t i = memRead s i := by
  simp only [memRead, hp, h]

theorem readBE32_congr {f g : Nat → Except Fault Byte} {i : Nat} (h : ∀ j, j < 4 → f (i + j) = g (i + j)) :
    readBE32 f i = readBE32 g i := by
  have h0 : f i = g i := h 0 (by decide)
  simp only [readBE32, h0, h 1 (by decide), h 2 (by decide), h 3 (by decide)]

/-- In PREPADDED mode a passing CHECK makes the blocks exactly the message (43_sequencer.md R78). -/
theorem length_of_prepadded {s : State} {n : Nat} (h : checkLength s = .ok n) (hm : s.modeLat = .prepadded) :
    64 * n = s.lLat.toNat := by
  rw [checkLength_ok] at h
  obtain ⟨-, ⟨hraw, -⟩ | ⟨-, hmod, -, rfl⟩⟩ := h
  · rw [hm] at hraw; cases hraw
  · omega

/-- Inside the padded message the stream depends on MSG below L_LAT only: in RAW mode it reads MSG there alone,
and in PREPADDED mode there is nothing beyond (40_padder.md R59). -/
theorem paddedByte_congr {s : State} {mem : Memory} {e i : Nat} (hc : checkLength s = .ok s.nb)
    (hi : i < 64 * s.nb)
    (hagree : i < s.lLat.toNat → msgByte { s with msg := mem, epoch := e } i = msgByte s i) :
    paddedByte { s with msg := mem, epoch := e } i = paddedByte s i := by
  have hread (h : i < s.lLat.toNat) : memRead { s with msg := mem, epoch := e } i = memRead s i :=
    memRead_congr (s := s) rfl (hagree h)
  cases hm : s.modeLat with
  | raw =>
    simp only [paddedByte, hm]
    split
    · exact hread ‹_›
    · rfl
  | prepadded =>
    simp only [paddedByte, hm]
    exact hread (length_of_prepadded hc hm ▸ hi)

/-- Settles O45: the four bytes of a word lie inside the padded message, and each depends on MSG below L_LAT
only. -/
theorem bytesBeyondTheLengthAreNotRead : Obligations.BytesBeyondTheLengthAreNotRead := by
  intro s s' t ht hc hk hs hagree
  obtain ⟨mem, e, rfl⟩ : ∃ mem e, s' = { s with msg := mem, epoch := e } := ⟨_, _, hs⟩
  exact readBE32_congr fun j hj =>
    paddedByte_congr hc (show 64 * s.k + 4 * t + j < 64 * s.nb by omega) (hagree _)

end Sys2Proof.Proofs
end

section
/-! PROOFS. Format U: the valid words are the words of the legal positions, and each uop is the one that its
position names (30_encoding.md R46 to R49). -/

namespace Sys2Proof.Proofs

open Sys2Proof.Machine Sys2Proof.Laws

theorem decodeUop_of_legal {p : Seq} (h : Machine.Seq.legal p = true) : decodeUop p.word = some (uopOf p) := by
  rw [decodeUop_word, if_pos h]

/-- The range of T of a position is that of its uop (R47). -/
theorem wf_uopOf_of_legal {p : Seq} (h : Machine.Seq.legal p = true) : (uopOf p).wf = true := by
  rw [legal_iff] at h
  obtain ⟨op, t⟩ := p
  cases op <;> simp only [opFirst, opLast] at h <;> simp [uopOf, Instr.wf, h]

theorem encode_uopOf_of_legal {p : Seq} (h : Machine.Seq.legal p = true) : encode (uopOf p) = .uop p.word := by
  rw [legal_iff] at h
  obtain ⟨hlo, hhi⟩ := h
  obtain ⟨op, t⟩ := p
  cases op
  case loadW | expandW | roundF | roundG | roundH | roundI => rfl
  case idle | check | initH | initWork | accum | serialize => obtain rfl := index_zero hhi; rfl

/-- Every well-formed uop is named by a legal position. -/
theorem exists_legal_of_wf {i : Instr} (hu : isUop i = true) (h : i.wf = true) :
    ∃ p, Machine.Seq.legal p = true ∧ uopOf p = i := by
  cases i <;> cases hu <;> simp only [Instr.wf, decide_eq_true_eq] at h
  case idle => exact ⟨⟨.idle, 0⟩, rfl, rfl⟩
  case check => exact ⟨⟨.check, 0⟩, rfl, rfl⟩
  case initH => exact ⟨⟨.initH, 0⟩, rfl, rfl⟩
  case loadW t => exact ⟨⟨.loadW, t⟩, legal_loadW t h, rfl⟩
  case expandW t => exact ⟨⟨.expandW, t⟩, legal_expandW t h.1 h.2, rfl⟩
  case initWork => exact ⟨⟨.initWork, 0⟩, rfl, rfl⟩
  case roundF t => exact ⟨⟨.roundF, t⟩, legal_roundF t h, rfl⟩
  case roundG t => exact ⟨⟨.roundG, t⟩, legal_roundG t h.1 h.2, rfl⟩
  case roundH t => exact ⟨⟨.roundH, t⟩, legal_roundH t h.1 h.2, rfl⟩
  case roundI t => exact ⟨⟨.roundI, t⟩, legal_roundI t h.1 h.2, rfl⟩
  case accum => exact ⟨⟨.accum, 0⟩, rfl, rfl⟩
  case serialize => exact ⟨⟨.serialize, 0⟩, rfl, rfl⟩

/-- The OP values up to 0xB are those of the operations (R47). -/
theorem exists_number_eq {n : BitVec 4} (h : n.toNat ≤ 0xB) : ∃ op : Op, op.number = n := by
  have hn : ∀ n : BitVec 4, n.toNat ≤ 0xB → (Op.ofNumber n).map Op.number = some n := by decide
  obtain ⟨op, -, hop⟩ := Option.map_eq_some_iff.1 (hn n h)
  exact ⟨op, hop⟩

/-- A word with Z = 0 and an OP that is not reserved is the word of a position (R46). -/
theorem exists_word_eq {u : BitVec 16} (hz : uopZ u = 0) (ho : (uopOp u).toNat ≤ 0xB) :
    ∃ p : Seq, p.word = u := by
  obtain ⟨op, hop⟩ := exists_number_eq ho
  refine ⟨⟨op, uopT u⟩, ?_⟩
  rw [Seq.word, uopWord, hop, ← hz, uop_fields]

/-- A word with Z ≠ 0 or a reserved OP has no meaning (R49). -/
theorem fields_of_decodeUop {u : BitVec 16} (h : (decodeUop u).isSome = true) :
    uopZ u = 0 ∧ (uopOp u).toNat ≤ 0xB := by
  simp only [decodeUop] at h
  split at h
  · cases h
  · refine ⟨not_not.1 ‹_›, ?_⟩
    split at h
    case h_13 => cases h
    all_goals omega

theorem isSome_decodeUop_word (p : Seq) : (decodeUop p.word).isSome = true ↔ Machine.Seq.legal p = true := by
  simp [decodeUop_word]

/-- A word that decodes is the word of the legal position that names its uop. -/
theorem word_of_decodeUop {u : BitVec 16} {i : Instr} (h : decodeUop u = some i) :
    ∃ p, Machine.Seq.legal p = true ∧ p.word = u ∧ uopOf p = i := by
  obtain ⟨hz, ho⟩ := fields_of_decodeUop (Option.isSome_of_eq_some h)
  obtain ⟨p, rfl⟩ := exists_word_eq hz ho
  have hl := (isSome_decodeUop_word p).1 (Option.isSome_of_eq_some h)
  exact ⟨p, hl, rfl, Option.some.inj ((decodeUop_of_legal hl).symm.trans h)⟩

/-- A concatenation is the disjunction of its two parts. -/
theorem append_eq_or {m n : Nat} (x : BitVec m) (y : BitVec n) :
    x ++ y = (x ++ (0 : BitVec n)) ||| y.setWidth (m + n) := by
  apply BitVec.eq_of_getLsbD_eq
  intro i hi
  simp only [BitVec.getLsbD_or, BitVec.getLsbD_append, BitVec.getLsbD_setWidth]
  by_cases h : i < n
  · simp [h, hi]
  · simp [h, BitVec.getLsbD_of_ge y i (by omega)]

/-- The word of a position, written as R47 writes it: OP << 12 | T. -/
theorem word_eq_shiftLeft_or (p : Seq) : p.word = (p.op.number.setWidth 16 <<< 12) ||| p.t.setWidth 16 := by
  have hop : p.op.number ++ (0 : BitVec 5) ++ (0 : BitVec 7) = p.op.number.setWidth 16 <<< 12 := by
    cases p.op <;> rfl
  rw [Seq.word, uopWord, append_eq_or, hop]

theorem decodeUop_shiftLeft_or {n : BitVec 16} (p : Seq) (hn : p.op.number.setWidth 16 = n)
    (h : Machine.Seq.legal p = true) : decodeUop ((n <<< 12) ||| p.t.setWidth 16) = some (uopOf p) := by
  rw [← hn, ← word_eq_shiftLeft_or, decodeUop_of_legal h]

/-- A position is legal if its word's T is in the range that the table gives its OP (R47). -/
theorem legal_iff_table {p : Seq} : Machine.Seq.legal p = true ↔
    let op := (uopOp p.word).toNat
    let t := (uopT p.word).toNat
    (op = 0x3 → t ≤ 15) ∧ (op = 0x4 → 16 ≤ t ∧ t ≤ 79) ∧ (op = 0x6 → t ≤ 19)
      ∧ (op = 0x7 → 20 ≤ t ∧ t ≤ 39) ∧ (op = 0x8 → 40 ≤ t ∧ t ≤ 59) ∧ (op = 0x9 → 60 ≤ t ∧ t ≤ 79)
      ∧ (op ∈ [0x0, 0x1, 0x2, 0x5, 0xA, 0xB] → t = 0) := by
  rw [legal_iff, Seq.word, uopOp_uopWord, uopT_uopWord]
  obtain ⟨op, t⟩ := p
  cases op <;> simp [Op.number, opFirst, opLast]

/-- Settles O9: the valid words are those of the legal positions, and the table gives the legal ranges. -/
theorem validUopWordsAreThoseOfTheTable : Obligations.ValidUopWordsAreThoseOfTheTable := by
  refine ⟨fun t => ⟨fun h => ?_, fun h => ?_, fun h h' => ?_, fun h => ?_, fun h h' => ?_, fun h h' => ?_,
    fun h h' => ?_⟩, fun u => ⟨fun h => ?_, fun ⟨hz, ho, h⟩ => ?_⟩⟩
  · obtain rfl : t = 0 := index_zero h.le
    decide
  · exact decodeUop_shiftLeft_or ⟨.loadW, t⟩ rfl (legal_loadW t h)
  · exact decodeUop_shiftLeft_or ⟨.expandW, t⟩ rfl (legal_expandW t h h')
  · exact decodeUop_shiftLeft_or ⟨.roundF, t⟩ rfl (legal_roundF t h)
  · exact decodeUop_shiftLeft_or ⟨.roundG, t⟩ rfl (legal_roundG t h h')
  · exact decodeUop_shiftLeft_or ⟨.roundH, t⟩ rfl (legal_roundH t h h')
  · exact decodeUop_shiftLeft_or ⟨.roundI, t⟩ rfl (legal_roundI t h h')
  · obtain ⟨hz, ho⟩ := fields_of_decodeUop h
    obtain ⟨p, rfl⟩ := exists_word_eq hz ho
    exact ⟨hz, ho, legal_iff_table.1 ((isSome_decodeUop_word p).1 h)⟩
  · obtain ⟨p, rfl⟩ := exists_word_eq hz ho
    exact (isSome_decodeUop_word p).2 (legal_iff_table.2 h)

end Sys2Proof.Proofs
end

section
/-! PROOFS. Format B: what the decode procedure answers for each kind of descriptor, the descriptors that it
answers for, and that the encoder builds them (30_encoding.md R50 to R52). -/

namespace Sys2Proof.Proofs

open Sys2Proof.Machine Sys2Proof.Laws

/-! ### The procedure of R51, one kind of descriptor a lemma -/

theorem byWr_descriptor (wr : Bool) (sz : BitVec 2) (off : BitVec 25) (rd wt : Instr) :
    byWr (descriptor wr sz off) rd wt = some (if wr then wt else rd) := by
  rw [byWr, descWr_descriptor]

theorem decodeHost_msg8 (wr : Bool) (i : BitVec 24) (v : Word) :
    decodeHost ⟨descriptor wr 0b00 (msgOff i), v⟩
      = some (if wr then .wrMsg8 i (v.setWidth 8) else .rdMsg8 i) := by
  have hoff : 0x1000 ≤ 0x01000000 + i.toNat := by omega
  simp [decodeHost, descIndex_descriptor, byWr_descriptor, hoff]

theorem decodeHost_msg32 (wr : Bool) {i : BitVec 24} (v : Word) (h4 : i.toNat % 4 = 0) :
    decodeHost ⟨descriptor wr 0b10 (msgOff i), v⟩ = some (if wr then .wrMsg32 i v else .rdMsg32 i) := by
  have hoff : (0x01000000 + i.toNat) % 4 = 0 := by omega
  simp [decodeHost, descIndex_descriptor, byWr_descriptor, hoff]

theorem decodeHost_rsvd8 (wr : Bool) {off : BitVec 24} (v : Word) (h : 0x1000 ≤ off.toNat) :
    decodeHost ⟨descriptor wr 0b00 (lowOff off), v⟩
      = some (if wr then .wrRsvd8 off (v.setWidth 8) else .rdRsvd8 off) := by
  simp [decodeHost, descIndex_descriptor, byWr_descriptor, h]

/-- The descriptor of an aligned 32-bit access below the message window, the only one that can name a register. -/
def isReg32 (d : BitVec 32) : Bool :=
  decide (descZ d = 0 ∧ descSz d = 0b10 ∧ (descOff d).toNat % 4 = 0 ∧ inMsgWindow (descOff d) = false)

theorem isReg32_descriptor (wr : Bool) {off : BitVec 24} (h4 : off.toNat % 4 = 0) :
    isReg32 (descriptor wr 0b10 (lowOff off)) = true := by simp [isReg32, h4]

theorem decodeHost_reg32 {d : BitVec 32} (v : Word) (h : isReg32 d = true) :
    decodeHost ⟨d, v⟩ = decodeReg32 d v := by
  obtain ⟨hz, hs, h4, hm⟩ := of_decide_eq_true h
  simp [decodeHost, hz, hs, h4, hm]

theorem decodeReg32_rsvd32 (wr : Bool) {off : BitVec 24} (v : Word) (h : 0x24 ≤ off.toNat) :
    decodeReg32 (descriptor wr 0b10 (lowOff off)) v
      = some (if wr then .wrRsvd32 off v else .rdRsvd32 off) := by
  rw [decodeReg32, descOff_descriptor, toNat_lowOff, descIndex_descriptor, index_lowOff]
  split
  case h_10 => exact byWr_descriptor ..
  all_goals omega

theorem decodeHost_rsvd32 (wr : Bool) {off : BitVec 24} (v : Word) (h4 : off.toNat % 4 = 0)
    (h : 0x24 ≤ off.toNat) : decodeHost ⟨descriptor wr 0b10 (lowOff off), v⟩
      = some (if wr then .wrRsvd32 off v else .rdRsvd32 off) :=
  (decodeHost_reg32 v (isReg32_descriptor wr h4)).trans (decodeReg32_rsvd32 wr v h)

theorem decodeReg32_ne_none (d : BitVec 32) (v : Word) : decodeReg32 d v ≠ none := by
  simp only [decodeReg32, byWr]
  split <;> exact Option.some_ne_none _

/-- A descriptor is UNSUPPORTED exactly if one of the first three lines of R51 matches. -/
theorem decodeHost_eq_none_iff (x : Txn) : decodeHost x = none ↔
    (descZ x.desc ≠ 0 ∨ descSz x.desc = 0b01 ∨ descSz x.desc = 0b11)
      ∨ (descSz x.desc = 0b10 ∧ (descOff x.desc).toNat % 4 ≠ 0)
      ∨ (descSz x.desc = 0b00 ∧ (descOff x.desc).toNat < 0x1000) := by
  simp only [decodeHost]
  split
  · exact iff_of_true rfl (.inl ‹_›)
  split
  · exact iff_of_true rfl (.inr (.inl ‹_›))
  split
  · exact iff_of_true rfl (.inr (.inr ‹_›))
  · refine iff_of_false ?_ (by tauto)
    split
    · split <;> exact Option.some_ne_none _
    · split
      · exact decodeReg32_ne_none _ _
      · exact Option.some_ne_none _

/-! ### The descriptors that have a meaning -/

/-- The descriptors of the transactions: an access of the message window or of an offset below it, of 8 bits
or of 32 bits and then aligned; in the register page only of 32 bits (R50 to R52). -/
inductive Supported : BitVec 32 → Prop
  | msg8 (wr : Bool) (i : BitVec 24) : Supported (descriptor wr 0b00 (msgOff i))
  | msg32 (wr : Bool) (i : BitVec 24) (h4 : i.toNat % 4 = 0) : Supported (descriptor wr 0b10 (msgOff i))
  | low8 (wr : Bool) (off : BitVec 24) (h : 0x1000 ≤ off.toNat) : Supported (descriptor wr 0b00 (lowOff off))
  | low32 (wr : Bool) (off : BitVec 24) (h4 : off.toNat % 4 = 0) : Supported (descriptor wr 0b10 (lowOff off))

/-- The sizes that have a meaning are 8 and 32 bits. -/
theorem size_of_ne : ∀ sz : BitVec 2, sz ≠ 0b01 → sz ≠ 0b11 → sz = 0b00 ∨ sz = 0b10 := by decide

theorem supported_of_decodeHost {x : Txn} (h : decodeHost x ≠ none) : Supported x.desc := by
  rw [Ne, decodeHost_eq_none_iff] at h
  simp only [not_or, not_not, not_and, not_lt] at h
  obtain ⟨⟨hz, h1, h3⟩, h4, hlow⟩ := h
  rw [← descriptor_fields x.desc hz]
  cases hm : inMsgWindow (descOff x.desc)
  · rw [index_of_low _ hm, toNat_lowOff] at h4 hlow
    rw [index_of_low _ hm]
    rcases size_of_ne _ h1 h3 with hs | hs <;> rw [hs]
    · exact .low8 _ _ (hlow hs)
    · exact .low32 _ _ (h4 hs)
  · rw [index_of_msg _ hm, toNat_msgOff] at h4
    rw [index_of_msg _ hm]
    rcases size_of_ne _ h1 h3 with hs | hs <;> rw [hs]
    · exact .msg8 _ _
    · have := h4 hs
      exact .msg32 _ _ (by omega)

/-! ### The encoder -/

/-- The instruction is well-formed and its encoding has the descriptor. -/
def HasDescriptor (i : Instr) (d : BitVec 32) : Prop := i.wf = true ∧ ∃ v : Word, encode i = .host ⟨d, v⟩

/-- Of the accesses of an aligned offset below the message window, the named registers are found by their
offset, and the rest is reserved space. -/
theorem hasDescriptor_of_decodeReg32 {wr : Bool} {off : BitVec 24} {v : Word} {i : Instr}
    (h4 : off.toNat % 4 = 0) (h : decodeReg32 (descriptor wr 0b10 (lowOff off)) v = some i) :
    HasDescriptor i (descriptor wr 0b10 (lowOff off)) := by
  by_cases hr : 0x24 ≤ off.toNat
  · rw [decodeReg32_rsvd32 wr v hr] at h
    cases h
    cases wr <;> exact ⟨decide_eq_true ⟨h4, hr⟩, _, rfl⟩
  · have ho : off = BitVec.ofNat 24 off.toNat := BitVec.eq_of_toNat_eq (by simp)
    rw [decodeReg32, descOff_descriptor, toNat_lowOff] at h
    split at h
    case h_10 => simp only [imp_false] at *; omega
    all_goals
      rename_i e
      rw [e] at ho
      subst ho
      rw [byWr_descriptor] at h
      cases h
      cases wr <;> exact ⟨rfl, _, rfl⟩

/-- Every descriptor has one meaning: what it decodes to has it. -/
theorem hasDescriptor_of_decodeHost {d : BitVec 32} {v : Word} {i : Instr} (h : decodeHost ⟨d, v⟩ = some i) :
    HasDescriptor i d := by
  have hs : Supported d := supported_of_decodeHost (x := ⟨d, v⟩) (by rw [h]; exact Option.some_ne_none i)
  cases hs with
  | msg8 wr j =>
    rw [decodeHost_msg8] at h
    cases h
    cases wr <;> exact ⟨rfl, _, rfl⟩
  | msg32 wr j h4 =>
    rw [decodeHost_msg32 wr v h4] at h
    cases h
    cases wr <;> exact ⟨decide_eq_true h4, _, rfl⟩
  | low8 wr off hp =>
    rw [decodeHost_rsvd8 wr v hp] at h
    cases h
    cases wr <;> exact ⟨decide_eq_true hp, _, rfl⟩
  | low32 wr off h4 =>
    rw [decodeHost_reg32 v (isReg32_descriptor wr h4)] at h
    exact hasDescriptor_of_decodeReg32 h4 h

/-- The byte of an 8-bit write comes back from the 32 bits that carry it (log entry 12). -/
theorem setWidth_byte (b : Byte) : (b.setWidth 32).setWidth 8 = b := by simp

/-- Each kind of descriptor is read as it was built. -/
theorem decode_encode_host {i : Instr} (hu : isUop i = false) (h : i.wf = true) : decode (encode i) = some i := by
  cases i <;> cases hu <;> simp only [Instr.wf, decide_eq_true_eq] at h
  case rdMsg8 j => exact decodeHost_msg8 false j 0
  case wrMsg8 j b => exact (decodeHost_msg8 true j _).trans (by rw [if_pos rfl, setWidth_byte])
  case rdMsg32 j => exact decodeHost_msg32 false 0 h
  case wrMsg32 j v => exact decodeHost_msg32 true v h
  case rdRsvd8 off => exact decodeHost_rsvd8 false 0 h
  case wrRsvd8 off b => exact (decodeHost_rsvd8 true _ h).trans (by rw [if_pos rfl, setWidth_byte])
  case rdRsvd32 off => exact decodeHost_rsvd32 false 0 h.1 h.2
  case wrRsvd32 off v => exact decodeHost_rsvd32 true v h.1 h.2
  case rdCtrl | rdStatus | rdLenLo | rdLenHi | rdDigest0 | rdDigest1 | rdDigest2 | rdDigest3 | rdDigest4 => rfl
  case wrCtrl | wrStatus | wrLenLo | wrLenHi | wrDigest0 | wrDigest1 | wrDigest2 | wrDigest3 | wrDigest4 =>
    exact decodeHost_reg32 _ (by decide)

/-- Settles O11: a uop is the one of a legal position, and each kind of descriptor is read as it was built. -/
theorem decodeOfEncodeIsTheInstruction : Obligations.DecodeOfEncodeIsTheInstruction := by
  intro i h
  cases hu : isUop i with
  | true =>
    obtain ⟨p, hl, rfl⟩ := exists_legal_of_wf hu h
    rw [encode_uopOf_of_legal hl]
    exact decodeUop_of_legal hl
  | false => exact decode_encode_host hu h

/-- Settles O12: a valid word is that of the legal position of its uop, and a supported descriptor that of its
transaction. -/
theorem encodeOfDecodeIsTheWord : Obligations.EncodeOfDecodeIsTheWord := by
  refine ⟨fun u i h => ?_, fun x i h => hasDescriptor_of_decodeHost h⟩
  obtain ⟨p, hl, rfl, rfl⟩ := word_of_decodeUop h
  exact ⟨wf_uopOf_of_legal hl, encode_uopOf_of_legal hl⟩

end Sys2Proof.Proofs
end

section
/-! PROOFS. Descriptors written out as 30_encoding.md R50 and 20_memory.md R37 write them, the kind of access, the
window and the index in one disjunction, and the words of the spec's list. -/

namespace Sys2Proof.Proofs

open Sys2Proof.Machine Sys2Proof.Laws

theorem descriptor_eq_or (wr : Bool) (sz : BitVec 2) (off : BitVec 25) :
    descriptor wr sz off = descriptor wr sz 0 ||| off.setWidth 32 := append_eq_or _ _

theorem setWidth_msgOff (i : BitVec 24) : (msgOff i).setWidth 32 = 0x01000000 ||| i.setWidth 32 := by
  rw [msgOff, append_eq_or, BitVec.setWidth_or, BitVec.setWidth_setWidth (by decide)]
  rfl

theorem setWidth_lowOff (off : BitVec 24) : (lowOff off).setWidth 32 = off.setWidth 32 := by
  rw [lowOff, append_eq_or, BitVec.setWidth_or, BitVec.setWidth_setWidth (by decide)]
  exact BitVec.zero_or

theorem decodeHost_or_msgOff {kind : BitVec 32} {wr : Bool} {sz : BitVec 2} {i : BitVec 24} {v : Word}
    {r : Option Instr} (hk : descriptor wr sz 0 = kind) (h : decodeHost ⟨descriptor wr sz (msgOff i), v⟩ = r) :
    decodeHost ⟨kind ||| (0x01000000 ||| i.setWidth 32), v⟩ = r := by
  rw [← h, ← hk, ← setWidth_msgOff, ← descriptor_eq_or]

theorem decodeHost_or_lowOff {kind : BitVec 32} {wr : Bool} {sz : BitVec 2} {off : BitVec 24} {v : Word}
    {r : Option Instr} (hk : descriptor wr sz 0 = kind) (h : decodeHost ⟨descriptor wr sz (lowOff off), v⟩ = r) :
    decodeHost ⟨kind ||| off.setWidth 32, v⟩ = r := by
  rw [← h, ← hk, ← setWidth_lowOff, ← descriptor_eq_or]

/-- An offset is aligned if bits 1:0 of its descriptor are 0. -/
theorem descOff_aligned_iff (d : BitVec 32) : (descOff d).toNat % 4 = 0 ↔ d.extractLsb' 0 2 = 0 := by
  rw [BitVec.toNat_eq, descOff, BitVec.extractLsb'_toNat, BitVec.extractLsb'_toNat]
  simp

/-- The offsets of the named registers (20_memory.md R37). -/
def namedOffsets : List (BitVec 32) := [0x000, 0x004, 0x008, 0x00C, 0x010, 0x014, 0x018, 0x01C, 0x020]

theorem isReg32_namedOffsets {off : BitVec 32} (h : off ∈ namedOffsets) :
    isReg32 (0x40000000 ||| off) = true ∧ isReg32 (0xC0000000 ||| off) = true := by
  have hall : namedOffsets.all
      (fun off => isReg32 (0x40000000 ||| off) && isReg32 (0xC0000000 ||| off)) = true := by decide
  exact Bool.and_eq_true_iff.1 (List.all_eq_true.1 hall off h)

/-- Settles O10: every descriptor of the statement is one of the kinds for which the procedure's answer is known,
its fields put together by disjunction. -/
theorem descriptorsDecodeByTheProcedure : Obligations.DescriptorsDecodeByTheProcedure := by
  intro v
  refine ⟨?_, ?_, fun d => ?_, fun i => ?_⟩
  · exact (List.map_congr_left fun _ h => decodeHost_reg32 v (isReg32_namedOffsets h).1).trans rfl
  · exact (List.map_congr_left fun _ h => decodeHost_reg32 v (isReg32_namedOffsets h).2).trans rfl
  · rw [decodeHost_eq_none_iff, Ne, Ne, descOff_aligned_iff d, or_assoc, or_assoc]
    rfl
  · rw [← BitVec.setWidth_eq_extractLsb' (by decide)]
    refine ⟨?_, ?_, fun h4 => ⟨?_, ?_⟩, fun hp => ⟨?_, ?_⟩, fun h4 hr => ⟨?_, ?_⟩⟩
    · exact decodeHost_or_msgOff rfl (decodeHost_msg8 false i v)
    · exact decodeHost_or_msgOff rfl (decodeHost_msg8 true i v)
    · exact decodeHost_or_msgOff rfl (decodeHost_msg32 false v h4)
    · exact decodeHost_or_msgOff rfl (decodeHost_msg32 true v h4)
    · exact decodeHost_or_lowOff rfl (decodeHost_rsvd8 false v hp)
    · exact decodeHost_or_lowOff rfl (decodeHost_rsvd8 true v hp)
    · exact decodeHost_or_lowOff rfl (decodeHost_rsvd32 false v h4 hr)
    · exact decodeHost_or_lowOff rfl (decodeHost_rsvd32 true v h4 hr)

/-- Settles O8: the words are closed, and the decoder runs on each. -/
theorem specWordsDecode : Obligations.SpecWordsDecode := by
  unfold Obligations.SpecWordsDecode
  decide

end Sys2Proof.Proofs
end

section
/-! PROOFS. An instruction that its encoding cannot carry is refused under the word it would have (log entry 13). -/

namespace Sys2Proof.Proofs

open Sys2Proof.Machine Sys2Proof.Laws

theorem ifLegal_illegal {p : Seq} (r : Result) (h : Machine.Seq.legal p = false) :
    ifLegal p r = .refused (.invalidUop p.word) := by simp [ifLegal, h]

theorem ifSupported_illFormed {i : Instr} {x : Txn} (r : Result) (h : i.wf = false) (he : encode i = .host x) :
    ifSupported i r = .refused (.unsupported x.desc) := by simp only [ifSupported, h, he]

theorem illegal_of_illFormed {p : Seq} (h : (uopOf p).wf = false) : Machine.Seq.legal p = false :=
  Bool.eq_false_iff.2 fun hl => Bool.eq_false_iff.1 h (wf_uopOf_of_legal hl)

theorem exec_illFormed_uop {i : Instr} {u : BitVec 16} (s : State) (h : i.wf = false) (he : encode i = .uop u) :
    exec i s = .refused (.invalidUop u) := by
  cases i <;> cases he
  case loadW | expandW | roundF | roundG | roundH | roundI => exact ifLegal_illegal _ (illegal_of_illFormed h)
  case idle | check | initH | initWork | accum | serialize => cases h

theorem exec_illFormed_txn {i : Instr} {x : Txn} (s : State) (h : i.wf = false) (he : encode i = .host x) :
    exec i s = .refused (.unsupported x.desc) := by
  cases i <;> cases he
  case rdMsg32 | wrMsg32 | rdRsvd8 | wrRsvd8 | rdRsvd32 | wrRsvd32 => exact ifSupported_illFormed _ h rfl
  all_goals cases h

/-- Settles O13: the guard of each uop with an index and of each transaction with an operand to check refuses it. -/
theorem illFormedInstructionsAreRefused : Obligations.IllFormedInstructionsAreRefused :=
  fun _ s h => ⟨fun _ => exec_illFormed_uop s h, fun _ => exec_illFormed_txn s h⟩

end Sys2Proof.Proofs
end

section
/-! PROOFS. The parts of pad (40_padder.md R57, R58), and that the padded stream is the padded message (R59). -/

namespace Sys2Proof.Proofs

open Sys2Proof.Machine Sys2Proof.Laws

theorem pad_eq (m : List Byte) :
    pad m = m ++ [0x80] ++ List.replicate ((55 + 64 - m.length % 64) % 64) 0x00
      ++ (List.range 8).map (lengthByte m.length) := by
  have hz : (56 + 64 - (m ++ [0x80]).length % 64) % 64 = (55 + 64 - m.length % 64) % 64 := by
    rw [List.length_append, List.length_singleton]
    omega
  rw [pad, padZeros_eq _ _ (by omega), hz]

/-- Settles O47: the loop of pad appends the zero bytes of the rule, and the length follows. -/
theorem padHasTheLengthOfTheRule : Obligations.PadHasTheLengthOfTheRule :=
  fun m => ⟨pad_eq m, length_pad m⟩

theorem length_add_nine_le_length_pad (m : List Byte) : m.length + 9 ≤ (pad m).length := by
  rw [length_pad]
  omega

theorem take_length_pad (m : List Byte) : (pad m).take m.length = m := by
  rw [pad_eq, List.append_assoc, List.append_assoc, List.take_left]

theorem getElem?_pad (m : List Byte) {i : Nat} (h : i < (pad m).length) :
    (pad m)[i]? = some ((pad m).getD i 0) := by
  rw [List.getD_eq_getElem _ _ h, List.getElem?_eq_getElem h]

theorem drop_length_pad (m : List Byte) :
    (pad m).drop ((pad m).length - 8) = (List.range 8).map (lengthByte m.length) := by
  rw [length_pad, pad, List.drop_left' (length_padZeros m)]

/-- The first j length bytes are the high 8·j bits of 8·L as a 64-bit number. -/
theorem foldl_lengthBytes {l : Nat} (hl : l < 2 ^ 61) {j : Nat} (hj : j ≤ 8) :
    ((List.range j).map (lengthByte l)).foldl (fun n b => 256 * n + b.toNat) 0 = 8 * l / 2 ^ (64 - 8 * j) := by
  induction j with
  | zero => exact (Nat.div_eq_of_lt (by omega)).symm
  | succ j ih =>
    have hpow : 2 ^ (64 - 8 * j) = 2 ^ (56 - 8 * j) * 256 := by
      rw [show 64 - 8 * j = 56 - 8 * j + 8 by omega, Nat.pow_add]
    have hexp : 64 - 8 * (j + 1) = 56 - 8 * j := by omega
    have hbyte : (lengthByte l j).toNat = 8 * l / 2 ^ (56 - 8 * j) % 256 := BitVec.toNat_ofNat _ _
    rw [List.range_succ, List.map_append, List.foldl_append, ih (by omega), hexp, hpow, ← Nat.div_div_eq_div_mul,
      List.map_singleton, List.foldl_cons, List.foldl_nil, hbyte, Nat.div_add_mod]

/-- Settles O48: the length and the prefix by the parts of pad, the marker and the zero bytes by its bytes, and the
length field by its big-endian value. -/
theorem padHasTheStatedProperties : Obligations.PadHasTheStatedProperties := by
  intro m hm
  have hlen := length_pad m
  have hle := length_add_nine_le_length_pad m
  refine ⟨?_, hle, take_length_pad m, ?_, fun i hi hi' => ?_, ?_, ?_⟩
  · rw [hlen, Nat.mul_mod_right]
  · rw [getElem?_pad m (by omega), getD_pad, if_neg (Nat.lt_irrefl _), if_pos rfl]
  · rw [getElem?_pad m (by omega), getD_pad, if_neg (by omega), if_neg (by omega), if_pos (by omega)]
  · rw [drop_length_pad, foldl_lengthBytes hm (Nat.le_refl 8)]
    exact Nat.div_one _
  · rintro rfl
    exact hlen

theorem nb_of_raw {s : State} {n : Nat} (h : checkLength s = .ok n) (hm : s.modeLat = .raw) :
    n = (s.lLat.toNat + 72) / 64 := by
  rw [checkLength_ok] at h
  obtain ⟨-, ⟨-, -, rfl⟩ | ⟨hpre, -⟩⟩ := h
  · rfl
  · rw [hm] at hpre; cases hpre

theorem length_paddedMessage {s : State} (hc : checkLength s = .ok s.nb) :
    (paddedMessage s).length = 64 * s.nb := by
  cases hm : s.modeLat with
  | raw => simp only [paddedMessage, hm, length_pad, length_msgPrefix, nb_of_raw hc hm]
  | prepadded => simp only [paddedMessage, hm, length_msgPrefix, length_of_prepadded hc hm]

/-- A passing CHECK makes every byte of the message readable (43_sequencer.md R78). -/
theorem memRead_msgPrefix {s : State} {n i : Nat} (hc : checkLength s = .ok n) (hi : i < s.lLat.toNat) :
    memRead s i = .ok ((msgPrefix s s.lLat.toNat).getD i 0) := by
  have hcap := ((checkLength_ok s n).1 hc).1
  rw [getD_msgPrefix s _ i hi, memRead_inside s i (Nat.lt_of_lt_of_le hi hcap)]

theorem paddedByte_eq {s : State} {i : Nat} (hc : checkLength s = .ok s.nb) (hi : i < 64 * s.nb) :
    paddedByte s i = .ok ((paddedMessage s).getD i 0) := by
  cases hm : s.modeLat with
  | raw =>
    rw [nb_of_raw hc hm] at hi
    simp only [paddedByte, paddedMessage, hm, getD_pad, length_msgPrefix, nb_of_raw hc hm, if_pos hi]
    split
    · exact memRead_msgPrefix hc ‹_›
    split
    · rfl
    split <;> rfl
  | prepadded =>
    simp only [paddedByte, paddedMessage, hm]
    exact memRead_msgPrefix hc (length_of_prepadded hc hm ▸ hi)

/-- Settles O49: byte for byte in RAW mode by the bytes of pad, in PREPADDED mode by those of the buffer. -/
theorem paddedStreamIsThePaddedMessage : Obligations.PaddedStreamIsThePaddedMessage :=
  fun _ _ hc hi => ⟨paddedByte_eq hc hi, length_paddedMessage hc⟩

end Sys2Proof.Proofs
end

section
/-! PROOFS. LOAD_W and EXPAND_W: the word that each writes (41_schedule.md R61, R62), and the free values outside
the blocks of the computation (log entries 8 and 9). -/

namespace Sys2Proof.Proofs

open Sys2Proof.Machine Sys2Proof.Laws

/-! ### LOAD_W -/

/-- Inside the blocks LOAD_W writes the word of the padded stream. -/
theorem exec_loadW_of_word {s : State} {t : BitVec 7} {v : Word} (ht : t.toNat ≤ 15) (hk : s.k < s.nb)
    (hv : paddedWord s t.toNat = .ok v) :
    exec (.loadW t) s = .next (advance ⟨.loadW, t⟩ (writeW t.toNat v s)) := by
  simp only [exec, execLoadW, ifLegal_of _ _ (legal_loadW t ht), hk, hv, if_true]

/-- At or after the last block it writes a free value. -/
theorem exec_loadW_free {s : State} {t : BitVec 7} (ht : t.toNat ≤ 15) (hk : s.nb ≤ s.k) :
    exec (.loadW t) s =
      .next (advance ⟨.loadW, t⟩ (writeW t.toNat (Config.freeWord s.draws) (takeDraw s))) := by
  simp only [exec, execLoadW, ifLegal_of _ _ (legal_loadW t ht), Nat.not_lt.2 hk, if_false]

/-- The word of four bytes of the padded stream, the first one most significant. -/
theorem paddedWord_of_bytes {s : State} {t : Nat} {b0 b1 b2 b3 : Byte}
    (h0 : paddedByte s (64 * s.k + 4 * t) = .ok b0) (h1 : paddedByte s (64 * s.k + 4 * t + 1) = .ok b1)
    (h2 : paddedByte s (64 * s.k + 4 * t + 2) = .ok b2) (h3 : paddedByte s (64 * s.k + 4 * t + 3) = .ok b3) :
    paddedWord s t = .ok (be32 b0 b1 b2 b3) :=
  readBE32_ok _ _ _ _ _ _ h0 h1 h2 h3

/-- Word t of block k of a padded message (R61). -/
def messageWord (p : List Byte) (k t : Nat) : Word :=
  be32 (p.getD (64 * k + 4 * t) 0) (p.getD (64 * k + 4 * t + 1) 0) (p.getD (64 * k + 4 * t + 2) 0)
    (p.getD (64 * k + 4 * t + 3) 0)

/-- After a CHECK that passes, all four bytes of a word lie inside the padded message. -/
theorem paddedWord_eq_messageWord {s : State} {t : Nat} (hc : checkLength s = .ok s.nb) (hk : s.k < s.nb)
    (ht : t ≤ 15) : paddedWord s t = .ok (messageWord (paddedMessage s) s.k t) :=
  paddedWord_of_bytes (paddedByte_eq hc (by omega)) (paddedByte_eq hc (by omega))
    (paddedByte_eq hc (by omega)) (paddedByte_eq hc (by omega))

/-- Settles O18: the four bytes are the word of the padded stream. -/
theorem loadWFormsTheBigEndianWord : Obligations.LoadWFormsTheBigEndianWord := by
  intro s t b0 b1 b2 b3 ht hk h0 h1 h2 h3
  rw [exec_loadW_of_word ht hk (paddedWord_of_bytes h0 h1 h2 h3)]
  simp only [advance, setSeq, writeW, nextSeq_loadW, be32]

/-- Settles O19: no byte that LOAD_W reads lies outside the padded message, so it completes with its word. -/
theorem loadWCompletesAfterCheck : Obligations.LoadWCompletesAfterCheck := by
  intro s t ht hc hk
  rw [exec_loadW_of_word ht hk (paddedWord_eq_messageWord hc hk ht)]
  simp only [advance, setSeq, writeW, nextSeq_loadW, messageWord]

/-! ### EXPAND_W -/

theorem exec_expandW_legal {s : State} {t : BitVec 7} (hlo : 16 ≤ t.toNat) (hhi : t.toNat ≤ 79) :
    exec (.expandW t) s = .next (advance ⟨.expandW, t⟩ (writeW t.toNat (expandWord s.w t.toNat) s)) := by
  simp only [exec, execExpandW, ifLegal_of _ _ (legal_expandW t hlo hhi)]

theorem readW_of_getElem? {w : Vector Word 80} {n : Nat} {v : Word} (h : w[n]? = some v) : readW w n = v := by
  rw [readW, h, Option.getD_some]

/-- Settles O20: the four words read are those that stand in W. -/
theorem expandWXorsFourWords : Obligations.ExpandWXorsFourWords := by
  intro s t a b c d hlo hhi ha hb hc hd
  have hword : expandWord s.w t.toNat = a ^^^ b ^^^ c ^^^ d := by
    rw [expandWord, readW_of_getElem? ha, readW_of_getElem? hb, readW_of_getElem? hc, readW_of_getElem? hd]
  rw [exec_expandW_legal hlo hhi, hword]
  simp only [advance, setSeq, writeW, nextSeq_expandW]

/-! ### The free values -/

/-- Past the last block ACCUM takes the position and k from a free value (log entry 9). -/
theorem afterAccum_free {s : State} (h : s.nb < s.k + 1) : afterAccum s =
    setSeq (Config.freeNext s.draws).1 (writeK (Config.freeNext s.draws).2 (takeDraw s)) := by
  rcases afterAccum_cases s with ⟨hlt, -⟩ | ⟨heq, -⟩ | ⟨-, e⟩
  · omega
  · omega
  · exact e

/-- Settles O28: LOAD_W by its meaning at k ≥ NB, ACCUM by the last of its three ways on. -/
theorem openValuesAreFreeValues : Obligations.OpenValuesAreFreeValues := by
  refine ⟨fun s t ht hk => ?loadW, fun s hk => ?accum⟩
  case loadW =>
    rw [exec_loadW_free ht hk]
    simp only [advance, setSeq, writeW, takeDraw, nextSeq_loadW]
  case accum =>
    simp only [exec, execAccum, afterAccum_free (s := writeH (feedForward s.h s.work) s) hk]
    simp only [setSeq, writeK, takeDraw, writeH, feedForward, add32]

end Sys2Proof.Proofs
end

section
/-! PROOFS. Every step keeps what has been computed right (41_schedule.md R63, 42_alu_rounds.md R76,
43_sequencer.md R83): the uops between blocks, the uops of a block, and the host's side. -/

namespace Sys2Proof.Proofs

open Sys2Proof.Machine Sys2Proof.Safety Sys2Proof.Laws

/-- The schedule of the block that is being hashed (R63). -/
def blockSched (s : State) : Vector Word 80 := sched (blockOf (paddedMessage s) s.k)

/-- Before INIT_H has run nothing has to be computed. -/
theorem computed_of_not_pastInit {s : State} (h : pastInit s.seq.op = false) : Computed s := by
  cases hop : s.seq.op <;> rw [hop] at h
  case idle | check | initH => constructor <;> simp [hop, pastInit, wordsDone, inRounds]
  all_goals cases h

/-- Between two blocks only H has been computed. -/
theorem computed_of_hash {s : State} (hw : wordsDone s.seq = 0) (hr : inRounds s.seq.op = false)
    (hh : s.h = hashBlocks (paddedMessage s) (blocksDone s)) : Computed s :=
  ⟨fun _ => hh, fun t ht => absurd ht (by omega), fun h => by rw [hr] at h; cases h⟩

/-- Inside a block k counts the blocks done (R82). -/
theorem blocksDone_of_inBlock {s : State} (h : inBlock s.seq.op = true) : blocksDone s = s.k := by
  cases hop : s.seq.op <;> rw [hop] at h <;> cases h <;> simp only [blocksDone, hop]

theorem hash_of_inBlock {s : State} (hc : Computed s) (hB : inBlock s.seq.op = true) :
    s.h = hashBlocks (paddedMessage s) s.k := by
  rw [hc.hash (pastInit_of_inBlock hB), blocksDone_of_inBlock hB]

/-- In the rounds W holds the block's whole schedule. -/
theorem readW_of_inRounds {s : State} (hc : Computed s) (hr : inRounds s.seq.op = true) {t : Nat} (ht : t < 80) :
    readW s.w t = readW (blockSched s) t :=
  hc.words t (by rw [wordsDone_of_inRounds hr]; exact ht)

/-! ### The uops of a block -/

/-- A uop of a block that changes W and A–E only has to compute these right. -/
theorem computed_of_blockUop {s : State} {p : Seq} {r : Work} {w : Vector Word 80} {m : Written}
    (hc : Computed s) (hB : inBlock s.seq.op = true) (hp : inBlock p.op = true)
    (hw : ∀ t, t < wordsDone p → readW w t = readW (blockSched s) t)
    (hr : inRounds p.op = true → r = roundsUpTo (blockSched s) (workOfHash s.h) (roundsDone p)) :
    Computed { s with seq := p, work := r, w := w, written := m } := by
  have hdone := blocksDone_of_inBlock (s := { s with seq := p, work := r, w := w, written := m }) hp
  have hh := hash_of_inBlock hc hB
  exact ⟨fun _ => by rw [hdone]; exact hh, hw, hr⟩

theorem inBlock_nextSeq_of_writesWord {p : Seq} (h : writesWord p.op) : inBlock (nextSeq p).op = true := by
  rcases h with h | h <;> rcases nextSeq_op p with e | e <;> rw [e, h] <;> rfl

/-- LOAD_W and EXPAND_W, if the word they write is that of the schedule. -/
theorem computed_writeW {s : State} (hc : Computed s) (hop : writesWord s.seq.op)
    (hl : Machine.Seq.legal s.seq = true) {v : Word} (hv : v = readW (blockSched s) s.seq.t.toNat) :
    Computed (advance s.seq (writeW s.seq.t.toNat v s)) := by
  have hlast := ((legal_iff _).1 hl).2
  have hmax := opLast_le s.seq.op
  have words : ∀ j, j < wordsDone (nextSeq s.seq) →
      readW (writeW s.seq.t.toNat v s).w j = readW (blockSched s) j := by
    rw [wordsDone_nextSeq_of_writesWord hop hl]
    exact words_writeW _ (by omega) (wordsDone_of_writesWord hop ▸ hc.words) hv
  exact computed_of_blockUop (s := s) hc (inBlock_of_writesWord hop) (inBlock_nextSeq_of_writesWord hop) words
    fun hr => by simp [not_inRounds_nextSeq_of_writesWord hop] at hr

/-- The first 16 words of a block's schedule are its words of the padded message (R61, R63). -/
theorem readW_blockSched_load (s : State) {t : Nat} (ht : t ≤ 15) :
    readW (blockSched s) t = messageWord (paddedMessage s) s.k t := by
  simp only [blockSched, readW_sched_load _ t (show t < 16 by omega), messageWord, Nat.add_assoc,
    byteAt_blockOf _ _ _ (show 4 * t < 64 by omega), byteAt_blockOf _ _ _ (show 4 * t + 1 < 64 by omega),
    byteAt_blockOf _ _ _ (show 4 * t + 2 < 64 by omega), byteAt_blockOf _ _ _ (show 4 * t + 3 < 64 by omega)]

/-- EXPAND_W forms the word of the schedule from the four that stand in W (R62, R63). -/
theorem expandWord_eq_readW_blockSched {s : State} (hc : Computed s) {t : Nat} (hlo : 16 ≤ t) (hhi : t ≤ 79)
    (hdone : wordsDone s.seq = t) : expandWord s.w t = readW (blockSched s) t := by
  have word (n : Nat) (hn : 0 < n) : readW s.w (t - n) = readW (blockSched s) (t - n) :=
    hc.words _ (by omega)
  simp only [expandWord, word 3 (by decide), word 8 (by decide), word 14 (by decide), word 16 (by decide),
    blockSched, readW_sched_expand _ t hlo (show t < 80 by omega)]

theorem computed_loadW {s : State} (hi : Inv s) (hc : Computed s) {i : BitVec 7} {v : Word}
    (hp : s.seq = ⟨.loadW, i⟩) (hlast : i.toNat ≤ 15) (hk : s.k < s.nb) (hv : paddedWord s i.toNat = .ok v) :
    Computed (advance ⟨.loadW, i⟩ (writeW i.toNat v s)) := by
  have hword : v = readW (blockSched s) i.toNat := by
    rw [paddedWord_eq_messageWord (hi.checked (by rw [hp]; rfl)) hk hlast] at hv
    rw [readW_blockSched_load s hlast, Except.ok.inj hv]
  have h := computed_writeW (v := v) hc (.inl (congrArg Seq.op hp)) hi.seqLegal (by rw [hp]; exact hword)
  rwa [hp] at h

theorem computed_expandW {s : State} (hi : Inv s) (hc : Computed s) {i : BitVec 7} (hp : s.seq = ⟨.expandW, i⟩)
    (hfirst : 16 ≤ i.toNat) (hlast : i.toNat ≤ 79) :
    Computed (advance ⟨.expandW, i⟩ (writeW i.toNat (expandWord s.w i.toNat) s)) := by
  have hword := expandWord_eq_readW_blockSched hc hfirst hlast (by rw [hp]; rfl)
  have h := computed_writeW (v := expandWord s.w i.toNat) hc (.inr (congrArg Seq.op hp)) hi.seqLegal
    (by rw [hp]; exact hword)
  rwa [hp] at h

theorem computed_initWork {s : State} (hc : Computed s) (hp : s.seq = ⟨.initWork, 0⟩) :
    Computed (setSeq ⟨.roundF, 0⟩ (writeWork (workOfHash s.h) s)) := by
  have hdone : wordsDone s.seq = 80 := by rw [hp]; rfl
  exact computed_of_blockUop (s := s) hc (by rw [hp]; rfl) rfl (fun t ht => hc.words t (hdone ▸ ht)) fun _ => rfl

/-- A ROUND uop counts one round more of the block (R82). -/
theorem roundsDone_nextSeq_of_isRound {p : Seq} (h : isRound p.op) (hl : Machine.Seq.legal p = true) :
    roundsDone (nextSeq p) = roundsDone p + 1 := by
  obtain ⟨op, t⟩ := p
  have hlast := ((legal_iff _).1 hl).2
  rcases h with h | h | h | h <;> cases h <;> simp only [opLast] at hlast
  all_goals
    simp only [nextSeq_roundF, nextSeq_roundG, nextSeq_roundH, nextSeq_roundI]
    split
    · exact toNat_succ t (by omega)
    · simp only [roundsDone, BitVec.reduceToNat]; omega

theorem roundsDone_of_isRound {p : Seq} (h : isRound p.op) : roundsDone p = p.t.toNat := by
  rcases h with h | h | h | h <;> simp only [roundsDone, h]

/-- A ROUND uop computes one round more of the block's compression (R76). -/
theorem computed_round {s : State} (hc : Computed s) (hop : isRound s.seq.op)
    (hl : Machine.Seq.legal s.seq = true) :
    Computed (advance s.seq
      (writeWork (roundStep (quartileOf s.seq.t.toNat) (readW s.w s.seq.t.toNat) s.work) s)) := by
  have hR := inRounds_of_isRound hop
  have hR' := inRounds_nextSeq_of_isRound hop
  have hlast := ((legal_iff _).1 hl).2
  have hmax := opLast_le s.seq.op
  have hwork : s.work = roundsUpTo (blockSched s) (workOfHash s.h) s.seq.t.toNat :=
    roundsDone_of_isRound hop ▸ hc.rounds hR
  refine computed_of_blockUop (s := s) hc (inBlock_of_inRounds hR) (inBlock_of_inRounds hR') (fun t ht => ?words)
    fun _ => ?rounds
  case words =>
    rw [wordsDone_of_inRounds hR'] at ht
    exact readW_of_inRounds hc hR ht
  case rounds =>
    rw [writeWork_work, roundsDone_nextSeq_of_isRound hop hl, roundsDone_of_isRound hop, roundsUpTo, ← hwork,
      readW_of_inRounds hc hR (by omega)]

/-! ### The uops between blocks -/

theorem computed_initH (s : State) : Computed (setSeq ⟨.loadW, 0⟩ (writeK 0 (writeH iv s))) :=
  computed_of_hash rfl rfl rfl

/-- ACCUM ends the compression of the block (R75, R76). -/
theorem feedForward_eq_hashBlocks {s : State} (hc : Computed s) (hp : s.seq = ⟨.accum, 0⟩) :
    feedForward s.h s.work = hashBlocks (paddedMessage s) (s.k + 1) := by
  have hwork : s.work = roundsUpTo (blockSched s) (workOfHash s.h) 80 := by
    rw [hc.rounds (by rw [hp]; rfl), hp]; rfl
  rw [hashBlocks, ← hash_of_inBlock hc (by rw [hp]; rfl), compress, hwork, blockSched]

/-- H is then the hash of one block more, at the next block as at SERIALIZE. -/
theorem computed_accum {s : State} (hi : Inv s) (hc : Computed s) (hp : s.seq = ⟨.accum, 0⟩) :
    Computed (afterAccum (writeH (feedForward s.h s.work) s)) := by
  have hk := hi.kBound (by rw [hp]; rfl)
  have hh := feedForward_eq_hashBlocks hc hp
  rcases afterAccum_cases (writeH (feedForward s.h s.work) s) with ⟨-, e⟩ | ⟨hlast, e⟩ | ⟨hgt, -⟩
  · rw [e]
    exact computed_of_hash rfl rfl hh
  · rw [e]
    rw [show s.k + 1 = s.nb from hlast] at hh
    exact computed_of_hash rfl rfl hh
  · simp only [writeH_k, writeH_nb] at hgt
    omega

/-- Every uop that completes keeps what has been computed right. -/
theorem computed_engineStep {s t : State} (hi : Inv s) (hc : Computed s) (h : EngineStep s t) : Computed t := by
  cases h with
  | idle hp => exact hc
  | checkPass n hp hn => exact computed_of_not_pastInit rfl
  | checkFail e hp he => exact computed_idle rfl
  | initH hp => exact computed_initH s
  | loadW i v hp hlast hk hv => exact computed_loadW hi hc hp hlast hk hv
  | loadWFree i hp hlast hk =>
    have hlt := hi.kBound (by rw [hp]; rfl)
    omega
  | expandW i hp hfirst hlast => exact computed_expandW hi hc hp hfirst hlast
  | initWork hp => exact computed_initWork hc hp
  | round q hq hop hl => exact hq ▸ computed_round hc hop hl
  | accum hp => exact computed_accum hi hc hp
  | serialize hp => exact computed_idle rfl

/-! ### The host and the reset input -/

/-- A transaction returns a value, or it writes while idle, when nothing has to be computed. -/
theorem computed_hostStep {i : Instr} {s t : State} (hc : Computed s) (h : HostStep i s t) : Computed t := by
  cases h with
  | unchanged => exact hc
  | read v => exact computed_congr s.schedule s.inputs (v :: s.returned) hc
  | start v => exact computed_of_not_pastInit rfl
  | mode _ _ _ hb | lenLo _ _ hb | lenHi _ _ hb | msg8 _ _ _ hb | msg32 _ _ _ hb =>
    exact computed_idle ((idle_iff s).1 hb)

/-- Settles O54: the step is the engine's uop, a turn that passes, the host's transaction or the reset input, and
each keeps what has been computed right. -/
theorem everyStepKeepsTheComputation : Obligations.EveryStepKeepsTheComputation := by
  intro s t hi hc h
  have hturn : Inv (takeTurn s) := inv_congr s.schedule.tail s.inputs s.returned hi
  have hcturn : Computed (takeTurn s) := computed_congr s.schedule.tail s.inputs s.returned hc
  rcases step_next h with ⟨-, hstep⟩ | ⟨-, -, rfl⟩ | ⟨-, x, i, rest, -, -, hstep⟩ | ⟨-, rest, -, rfl⟩
  · have hnote : noteReads (uopOf s.seq) (takeTurn s) = takeTurn s := noteReads_uopOf_of_inv hturn
    rw [hnote] at hstep
    exact computed_engineStep hturn hcturn hstep
  · exact hcturn
  · exact computed_hostStep (computed_congr s.schedule.tail rest s.returned hc) hstep
  · exact computed_idle rfl

end Sys2Proof.Proofs
end

section
/-! PROOFS. The 32-bit ALU and the round-function mux bit by bit (42_alu_rounds.md R64, R68). -/

namespace Sys2Proof.Proofs

open Sys2Proof.Machine Sys2Proof.Laws

/-- A rotate by r moves bit i to bit i + r, round the end of the word. -/
theorem getLsbD_rotateLeft_add_mod (v : Word) {r i : Nat} (hr : r < 32) (hi : i < 32) :
    (v.rotateLeft r).getLsbD ((i + r) % 32) = v.getLsbD i := by
  rw [BitVec.getLsbD_rotateLeft, Nat.mod_eq_of_lt hr]
  rcases Nat.lt_or_ge (i + r) 32 with h | h
  · simp [Nat.mod_eq_of_lt h, h]
  · have hwrap : (i + r) % 32 = i + r - 32 := by omega
    have hlow : i + r - 32 < r := by omega
    have hback : 32 - r + (i + r - 32) = i := by omega
    simp [hwrap, hlow, hback]

/-- Settles O14: ROTL is the rotate of bit vectors, and bit i of the rotate by 30 comes from bit i + 2. -/
theorem rotlIsCircular : Obligations.RotlIsCircular := by
  intro v i hi
  rw [rotl_five, rotl_thirty]
  refine ⟨getLsbD_rotateLeft_add_mod v (by decide) hi, getLsbD_rotateLeft_add_mod v (by decide) hi, ?_⟩
  have hround : ((i + 2) % 32 + 30) % 32 = i := by omega
  rw [← getLsbD_rotateLeft_add_mod v (r := 30) (by decide) (Nat.mod_lt (i + 2) (by decide)), hround]

theorem majority_eq_two_le : ∀ x y z : Bool,
    (x && y || x && z || y && z) = decide (2 ≤ x.toNat + y.toNat + z.toNat) := by decide

/-- Settles O15: each operation of the mux acts on the three bits alone. -/
theorem muxActsBitwise : Obligations.MuxActsBitwise := by
  intro b c d i hi
  refine ⟨?choice, ?parity, ?majority, rfl⟩
  case choice =>
    have hbit : (roundFn .f b c d).getLsbD i =
        (b.getLsbD i && c.getLsbD i || !b.getLsbD i && d.getLsbD i) := by simp [roundFn, muxF, hi]
    rw [hbit]
    cases b.getLsbD i <;> simp
  case parity => simp [roundFn, muxG]
  case majority =>
    rw [← majority_eq_two_le]
    simp [roundFn, muxH]

end Sys2Proof.Proofs
end

section
/-! PROOFS. The compression uops INIT_WORK, ROUND_F to ROUND_I and ACCUM: the exact next state of each
(42_alu_rounds.md R70 to R75). -/

namespace Sys2Proof.Proofs

open Sys2Proof.Machine Sys2Proof.Laws

/-- Settles O21: the position after INIT_WORK is the first round, and the uop writes A to E only. -/
theorem initWorkCopiesH : Obligations.InitWorkCopiesH := by
  intro s
  simp only [exec, execInitWork, advance, setSeq, writeWork, workOfHash, BitVec.ofNat_eq_ofNat, nextSeq_initWork]

/-! ### The rounds -/

/-- A ROUND uop takes its schedule word from W and writes A to E and seq only. -/
theorem execRound_of_word {q : Quartile} {p : Seq} {s : State} {v : Word} (hl : Machine.Seq.legal p = true)
    (hv : s.w[p.t.toNat]? = some v) :
    execRound q p s = .next
      { s with
        work := roundStep q v s.work
        written := { s.written with work := true }
        seq := nextSeq p } := by
  rw [execRound_of q p s hl, readW_of_getElem? hv]
  simp only [advance, setSeq, writeWork]

/-- Settles O22: the round of the first quartile, at a position that is legal for ROUND_F. -/
theorem roundFMixes : Obligations.RoundFMixes := by
  intro s t v ht hv
  rw [exec, execRoundF, execRound_of_word (legal_roundF t ht) hv, roundStep_f, nextSeq_roundF]

/-- Settles O23: the round of the second quartile, at a position that is legal for ROUND_G. -/
theorem roundGMixes : Obligations.RoundGMixes := by
  intro s t v hlo hhi hv
  rw [exec, execRoundG, execRound_of_word (legal_roundG t hlo hhi) hv, roundStep_g, nextSeq_roundG]

/-- Settles O24: the round of the third quartile, at a position that is legal for ROUND_H. -/
theorem roundHMixes : Obligations.RoundHMixes := by
  intro s t v hlo hhi hv
  rw [exec, execRoundH, execRound_of_word (legal_roundH t hlo hhi) hv, roundStep_h, nextSeq_roundH]

/-- Settles O25: the round of the last quartile, at a position that is legal for ROUND_I. -/
theorem roundIMixes : Obligations.RoundIMixes := by
  intro s t v hlo hhi hv
  rw [exec, execRoundI, execRound_of_word (legal_roundI t hlo hhi) hv, roundStep_i, nextSeq_roundI]

/-! ### ACCUM -/

/-- Before the last block ACCUM goes on to the next one. -/
theorem afterAccum_nextBlock {s : State} (h : s.k + 1 < s.nb) :
    afterAccum s = setSeq ⟨.loadW, 0⟩ (writeK (s.k + 1) s) := if_pos h

/-- After the last block it goes on to SERIALIZE. -/
theorem afterAccum_lastBlock {s : State} (h : s.k + 1 = s.nb) : afterAccum s = setSeq ⟨.serialize, 0⟩ s := by
  rcases afterAccum_cases s with ⟨hlt, -⟩ | ⟨-, e⟩ | ⟨hgt, -⟩
  · omega
  · exact e
  · omega

/-- Settles O26: the two rows of R81 for ACCUM, on the state that holds the five sums. -/
theorem accumAddsAndMovesOn : Obligations.AccumAddsAndMovesOn := by
  intro s
  refine ⟨fun hk => ?nextBlock, fun hk => ?lastBlock⟩
  case nextBlock =>
    rw [exec, execAccum, afterAccum_nextBlock (s := writeH (feedForward s.h s.work) s) hk]
    simp only [setSeq, writeK, writeH, feedForward, add32]
  case lastBlock =>
    rw [exec, execAccum, afterAccum_lastBlock (s := writeH (feedForward s.h s.work) s) hk]
    simp only [setSeq, writeH, feedForward, add32]

end Sys2Proof.Proofs
end

section
/-! PROOFS. CHECK, INIT_H, SERIALIZE and the quiescent engine: the exact next state of each (43_sequencer.md R77 to
R80). -/

namespace Sys2Proof.Proofs

open Sys2Proof.Machine Sys2Proof.Laws

theorem exec_check_of_ok {s : State} {n : Nat} (h : checkLength s = .ok n) :
    exec .check s = .next (setSeq ⟨.initH, 0⟩ (writeNB n s)) := by
  rw [exec, exec_check, h]

theorem exec_check_of_error {s : State} {e : ErrorKind} (h : checkLength s = .error e) :
    exec .check s = .next (raiseError e s) := by
  rw [exec, exec_check, h]

/-- Settles O16: each clause is an outcome of the tests, and CHECK completes with it. -/
theorem checkTestsTheLength : Obligations.CheckTestsTheLength := by
  intro s
  refine ⟨fun hm hl => ?_, fun hm hl hcap => ?_, fun hm hl hcap => ?_, fun hm hl => ?_,
    fun hm hl h0 hcap => ?_, fun hm hl h0 hcap => ?_⟩
  · exact exec_check_of_error (checkLength_overflow s hm hl)
  · exact exec_check_of_error (checkLength_capacity_raw s hm hl hcap)
  · exact exec_check_of_ok ((checkLength_ok s _).2 ⟨hcap, .inl ⟨hm, hl, rfl⟩⟩)
  · exact exec_check_of_error (checkLength_precondition s hm hl)
  · exact exec_check_of_error (checkLength_capacity_prepadded s hm hl h0 hcap)
  · exact exec_check_of_ok ((checkLength_ok s _).2 ⟨hcap, .inr ⟨hm, hl, h0, rfl⟩⟩)

/-- Settles O17: the position after INIT_H is the first word of the first block. -/
theorem initHLoadsTheInitialValue : Obligations.InitHLoadsTheInitialValue := by
  intro s
  simp only [exec, execInitH, advance, setSeq, writeK, writeH, iv, BitVec.ofNat_eq_ofNat, nextSeq_initH]

/-- Words written out one after another take four bytes each. -/
theorem getElem?_flatMap_wordBytes (l : List Word) (i : Nat) {j : Nat} (hj : j < 4) :
    (l.flatMap wordBytes)[4 * i + j]? = l[i]?.map fun v => byteOf v j := by
  have hlen (v : Word) : (wordBytes v).length = 4 := rfl
  induction l generalizing i with
  | nil => rfl
  | cons v l ih =>
    rw [List.flatMap_cons]
    cases i with
    | zero =>
      rw [List.getElem?_append_left (by rw [hlen]; omega)]
      simp [wordBytes, hj]
    | succ i =>
      rw [List.getElem?_append_right (by rw [hlen]; omega), hlen,
        show 4 * (i + 1) + j - 4 = 4 * i + j by omega]
      exact ih i

theorem digestBytes_eq_flatMap (d : Hash) :
    digestBytes d = [d.h0, d.h1, d.h2, d.h3, d.h4].flatMap wordBytes := rfl

/-- Settles O27: the position after SERIALIZE is (IDLE,0), and the digest is its five words, four bytes each. -/
theorem serializePublishesTheDigest : Obligations.SerializePublishesTheDigest := by
  refine ⟨fun s => ?effect, fun d i j _ hj => ?bytes⟩
  case effect =>
    simp only [exec, execSerialize, advance, setSeq, setDone, writeDigest, BitVec.ofNat_eq_ofNat, nextSeq_serialize]
  case bytes =>
    rw [digestBytes_eq_flatMap]
    exact getElem?_flatMap_wordBytes _ i hj

/-! ### The quiescent engine -/

/-- With no turn scheduled a step takes none off. -/
theorem takeTurn_of_unscheduled {s : State} (h : s.schedule = []) : takeTurn s = s := by
  cases s
  cases h
  rfl

/-- At (IDLE,0) the engine's turn changes nothing (R77). -/
theorem engineStep_idle {s t : State} (hp : s.seq = ⟨.idle, 0⟩) (h : EngineStep s t) : t = s := by
  cases h with
  | idle => rfl
  | round _ _ hop => simp [hp] at hop
  | checkPass _ hq | checkFail _ hq | initH hq | loadW _ _ hq | loadWFree _ hq | expandW _ hq | initWork hq
  | accum hq | serialize hq => rw [hp] at hq; cases hq

/-- Of the transactions only a START moves the position (R85). -/
theorem hostStep_seq {i : Instr} {s t : State} (h : HostStep i s t) :
    t.seq = s.seq ∨ ∃ v, i = .wrCtrl v ∧ v.getLsbD 0 = true ∧ t.seq = ⟨.check, 0⟩ := by
  cases h with
  | start v hi h0 => exact .inr ⟨v, hi, h0, rfl⟩
  | _ => exact .inl (by simp)

/-- Settles O6: the engine's turn at (IDLE,0) is that of IDLE, and of the host's transactions only a START moves
the position. -/
theorem idleEngineIsQuiescent : Obligations.IdleEngineIsQuiescent := by
  refine ⟨fun s => rfl, fun s hp hin hs => ?quiescent, fun s t hp h ht => ?leaves⟩
  case quiescent =>
    have hb : s.busy = false := (idle_iff s).2 (by rw [hp])
    have ha : nextAgent s = .engine := by simp [nextAgent, hs, hb, hin]
    have hd : decodeUop s.seq.word = some .idle := by rw [hp]; rfl
    rw [step_of_engine ha, runUop_of_decode hd, takeTurn_of_unscheduled hs, noteReads_of _ _ rfl]
    rfl
  case leaves =>
    have hidle : s.busy = false := (idle_iff s).2 (by rw [hp])
    have stays {u : State} (hu : u.seq = s.seq) : ¬ u.busy = true :=
      fun hb => (busy_iff u).1 hb (by rw [hu, hp])
    rcases step_next h with ⟨-, hstep⟩ | ⟨-, -, rfl⟩ | ⟨ha, x, i, rest, hx, hd, hstep⟩ | ⟨-, rest, -, rfl⟩
    · rw [engineStep_idle (s := noteReads (uopOf s.seq) (takeTurn s)) hp hstep] at ht
      exact absurd ht (stays rfl)
    · exact absurd ht (stays rfl)
    · rcases hostStep_seq hstep with hseq | ⟨v, rfl, h0, hseq⟩
      · exact absurd ht (stays hseq)
      · exact ⟨x, rest, v, ha, hx, hd, h0, hseq⟩
    · exact absurd ht (stays hp.symm)

end Sys2Proof.Proofs
end

section
/-! PROOFS. What the engine does while it is alone: its turn always completes, it brings the end of the computation
one step nearer (43_sequencer.md R82, 70_reset_and_hazards.md R123), and so a computation ends, with the digest of
the message or with an error. -/

namespace Sys2Proof.Proofs

open Sys2Proof.Machine Sys2Proof.Safety Sys2Proof.Laws

/-! ### The engine's turn completes -/

/-- In a state of the invariant the uop that the position names completes (60_exceptions.md R109). -/
theorem exec_uopOf_completes {s : State} (hi : Inv s) : ∃ t, exec (uopOf s.seq) s = .next t := by
  have hl := hi.seqLegal
  have hr := (legal_iff _).1 hl
  cases hop : s.seq.op <;> simp only [uopOf, hop] <;> simp only [hop, opFirst, opLast] at hr
  case idle | initH | initWork | accum | serialize => exact ⟨_, rfl⟩
  case check =>
    cases hc : checkLength s with
    | ok n => exact ⟨_, exec_check_of_ok hc⟩
    | error e => exact ⟨_, exec_check_of_error hc⟩
  case loadW =>
    have hk := hi.kBound (by rw [hop]; rfl)
    exact ⟨_, exec_loadW_of_word hr.2 hk (paddedWord_eq_messageWord (hi.checked (by rw [hop]; rfl)) hk hr.2)⟩
  case expandW => exact ⟨_, exec_expandW_legal hr.1 hr.2⟩
  case roundF => exact ⟨_, execRound_of _ _ s (legal_roundF _ hr.2)⟩
  case roundG => exact ⟨_, execRound_of _ _ s (legal_roundG _ hr.1 hr.2)⟩
  case roundH => exact ⟨_, execRound_of _ _ s (legal_roundH _ hr.1 hr.2)⟩
  case roundI => exact ⟨_, execRound_of _ _ s (legal_roundI _ hr.1 hr.2)⟩

/-- So does the engine's turn, and it is one of the rows of R81. -/
theorem step_of_inv_of_engine {s : State} (hi : Inv s) (ha : nextAgent s = .engine) :
    ∃ t, step s = .next t ∧ EngineStep (takeTurn s) t := by
  have hturn : Inv (takeTurn s) := inv_congr s.schedule.tail s.inputs s.returned hi
  have hnote : noteReads (uopOf s.seq) (takeTurn s) = takeTurn s := noteReads_uopOf_of_inv hturn
  obtain ⟨t, ht⟩ := exec_uopOf_completes hturn
  refine ⟨t, ?_, exec_uopOf_next hturn.seqLegal ht⟩
  rw [step_of_engine ha, runUop_of_decode (decodeUop_of_inv hi), hnote]
  exact ht

/-! ### The count of the steps that are left -/

theorem inBlock_nextSeq {p : Seq} (h : inBlock p.op = true) (hA : p.op ≠ .accum) :
    inBlock (nextSeq p).op = true := by
  rcases nextSeq_op p with e | e <;> rw [e]
  · exact h
  · cases hop : p.op <;> simp_all [inBlock, opAfter]

/-- Each uop of a block before ACCUM moves to the next of the 162 (R82). -/
theorem blockIndex_nextSeq {p : Seq} (h : inBlock p.op = true) (hA : p.op ≠ .accum)
    (hl : Machine.Seq.legal p = true) : blockIndex (nextSeq p) = blockIndex p + 1 ∧ blockIndex p ≤ 160 := by
  obtain ⟨op, t⟩ := p
  have hr := (legal_iff _).1 hl
  cases op <;> simp only [opFirst, opLast] at hr
  case idle | check | initH | serialize => cases h
  case accum => exact absurd rfl hA
  case initWork => rw [index_zero hr.2]; decide
  all_goals
    simp only [nextSeq_loadW, nextSeq_expandW, nextSeq_roundF, nextSeq_roundG, nextSeq_roundH, nextSeq_roundI]
    split
    · simp only [blockIndex, toNat_succ t (show t.toNat < 127 by omega), true_and]; omega
    · simp only [blockIndex, BitVec.reduceToNat]; omega

theorem stepsLeft_of_idle {s : State} (h : s.busy = false) : stepsLeft s = 0 := by
  simp only [stepsLeft, (idle_iff s).1 h]

theorem stepsLeft_of_check {s : State} {n : Nat} (hp : s.seq = ⟨.check, 0⟩) (hc : checkLength s = .ok n) :
    stepsLeft s = 3 + 162 * n := by
  simp only [stepsLeft, hp, hc]

theorem stepsLeft_of_inBlock {s : State} (h : inBlock s.seq.op = true) :
    stepsLeft s = 1 + 162 * (s.nb - s.k) - blockIndex s.seq := by
  cases hop : s.seq.op <;> rw [hop] at h <;> cases h <;> simp only [stepsLeft, hop]

/-- A uop of a block before ACCUM, which leaves NB and k as they are. -/
theorem stepsLeft_of_blockUop {s t : State} (hi : Inv s) (hB : inBlock s.seq.op = true) (hA : s.seq.op ≠ .accum)
    (hs : t.seq = nextSeq s.seq) (hn : t.nb = s.nb) (hk : t.k = s.k) : stepsLeft t + 1 = stepsLeft s := by
  have hlt := hi.kBound hB
  obtain ⟨hnext, hle⟩ := blockIndex_nextSeq hB hA hi.seqLegal
  rw [stepsLeft_of_inBlock hB, stepsLeft_of_inBlock (s := t) (by rw [hs]; exact inBlock_nextSeq hB hA), hs, hn, hk,
    hnext]
  omega

theorem stepsLeft_accum {s : State} (hi : Inv s) (hp : s.seq = ⟨.accum, 0⟩) (x : Hash) :
    stepsLeft (afterAccum (writeH x s)) + 1 = stepsLeft s := by
  have hB : inBlock s.seq.op = true := by rw [hp]; rfl
  have hlt := hi.kBound hB
  have hlast : blockIndex s.seq = 161 := by rw [hp]; rfl
  rw [stepsLeft_of_inBlock hB, hlast]
  rcases afterAccum_cases (writeH x s) with ⟨-, e⟩ | ⟨hnb, e⟩ | ⟨hgt, -⟩
  · rw [e, stepsLeft_of_inBlock rfl]
    simp only [setSeq_nb, setSeq_k, setSeq_seq, writeK_nb, writeK_k, writeH_nb, writeH_k, blockIndex,
      BitVec.reduceToNat, BitVec.ofNat_eq_ofNat]
    omega
  · simp only [writeH_k, writeH_nb] at hnb
    simp only [e, stepsLeft, setSeq_seq]
    omega
  · simp only [writeH_k, writeH_nb] at hgt
    omega

/-- Each engine step while BUSY brings the end one step nearer (R123). -/
theorem stepsLeft_engineStep {s t : State} (hi : Inv s) (hb : s.busy = true) (h : EngineStep s t) :
    stepsLeft t + 1 = stepsLeft s := by
  cases h with
  | idle hp => exact absurd (congrArg Seq.op hp) ((busy_iff s).1 hb)
  | checkPass n hp hn =>
    rw [stepsLeft_of_check hp hn]
    simp only [stepsLeft, setSeq_seq, setSeq_nb, writeNB_nb]
    omega
  | checkFail e hp he => simp only [stepsLeft, raiseError_seq, hp, he]
  | initH hp =>
    rw [stepsLeft_of_inBlock rfl]
    simp only [stepsLeft, hp, setSeq_nb, setSeq_k, setSeq_seq, writeK_nb, writeK_k, writeH_nb, blockIndex,
      BitVec.reduceToNat, BitVec.ofNat_eq_ofNat]
    omega
  | accum hp => exact stepsLeft_accum hi hp _
  | serialize hp => simp only [stepsLeft, setSeq_seq, hp]
  | round _ _ hop =>
    have hR := inBlock_of_inRounds (inRounds_of_isRound hop)
    exact stepsLeft_of_blockUop hi hR (by rcases hop with e | e | e | e <;> rw [e] <;> nofun) rfl rfl rfl
  | loadW _ _ hp | loadWFree _ hp | expandW _ hp | initWork hp =>
    exact stepsLeft_of_blockUop hi (by rw [hp]; rfl) (by rw [hp]; nofun) (by rw [hp]; rfl) rfl rfl

/-- Inside a block at least ACCUM and SERIALIZE are left. -/
theorem two_le_stepsLeft_of_inBlock {s : State} (hi : Inv s) (hB : inBlock s.seq.op = true) :
    2 ≤ stepsLeft s := by
  have hlt := hi.kBound hB
  have hle : blockIndex s.seq ≤ 161 := by
    by_cases hA : s.seq.op = .accum
    · simp only [blockIndex, hA, Nat.le_refl]
    · exact Nat.le_succ_of_le (blockIndex_nextSeq hB hA hi.seqLegal).2
  rw [stepsLeft_of_inBlock hB]
  omega

/-! ### The last step of a computation -/

/-- Of the uops only a failing CHECK and SERIALIZE leave the engine idle. -/
theorem engineStep_ends {s t : State} (hi : Inv s) (hb : s.busy = true) (h : EngineStep s t)
    (ht : t.busy = false) :
    (∃ e, checkLength s = .error e ∧ t = raiseError e s) ∨
      (s.seq = ⟨.serialize, 0⟩ ∧ t = setSeq ⟨.idle, 0⟩ (setDone (writeDigest s.h s))) := by
  have hlast : stepsLeft s = 1 := by rw [← stepsLeft_engineStep hi hb h, stepsLeft_of_idle ht]
  have outside : ¬ inBlock s.seq.op = true := fun hB => by
    have hle := two_le_stepsLeft_of_inBlock hi hB
    omega
  cases h with
  | idle hp => exact absurd (congrArg Seq.op hp) ((busy_iff s).1 hb)
  | checkPass n hp hn =>
    rw [stepsLeft_of_check hp hn] at hlast
    omega
  | checkFail e hp he => exact .inl ⟨e, he, rfl⟩
  | initH hp =>
    simp only [stepsLeft, hp] at hlast
    omega
  | round _ _ hop => exact absurd (inBlock_of_inRounds (inRounds_of_isRound hop)) outside
  | serialize hp => exact .inr ⟨hp, rfl⟩
  | loadW _ _ hp | loadWFree _ hp | expandW _ hp | initWork hp | accum hp =>
    exact absurd (by rw [hp]; rfl) outside

/-- What SERIALIZE publishes is the hash of the whole padded message (R80, R83). -/
theorem h_eq_digestOf_of_serialize {s : State} (hi : Inv s) (hc : Computed s) (hp : s.seq = ⟨.serialize, 0⟩) :
    s.h = digestOf (paddedMessage s) := by
  have hnb : blocksDone s = s.nb := by simp only [blocksDone, hp]
  rw [hc.hash (by rw [hp]; rfl), hnb, digestOf, length_paddedMessage (hi.checked (by rw [hp]; rfl)),
    Nat.mul_div_cancel_left _ (by decide)]

theorem paddedMessage_raw {s : State} (h : s.modeLat = .raw) :
    paddedMessage s = pad (msgPrefix s s.lLat.toNat) := by simp only [paddedMessage, h]

theorem paddedMessage_prepadded {s : State} (h : s.modeLat = .prepadded) :
    paddedMessage s = msgPrefix s s.lLat.toNat := by simp only [paddedMessage, h]

/-- A step of a computation that ends with DONE is SERIALIZE's, and publishes the hash of the padded message. -/
theorem digest_of_step_done {s t : State} (hi : Inv s) (hc : Computed s) (hb : s.busy = true)
    (h : step s = .next t) (hd : t.done = true) : t.busy = false ∧ t.digest = digestOf (paddedMessage s) := by
  have hdone : s.done = false := (hi.busyClear hb).1
  have hturn : Inv (takeTurn s) := inv_congr s.schedule.tail s.inputs s.returned hi
  have hcturn : Computed (takeTurn s) := computed_congr s.schedule.tail s.inputs s.returned hc
  have hidle : t.busy = false := by
    rw [Bool.eq_false_iff]
    intro hbt
    have hclear := ((everyStepKeepsTheInvariant s t hi h).busyClear hbt).1
    rw [hd] at hclear
    cases hclear
  rcases step_next h with ⟨-, hstep⟩ | ⟨-, -, rfl⟩ | ⟨-, x, i, rest, -, -, hstep⟩ | ⟨-, rest, -, rfl⟩
  · have hnote : noteReads (uopOf s.seq) (takeTurn s) = takeTurn s := noteReads_uopOf_of_inv hturn
    rw [hnote] at hstep
    rcases engineStep_ends hturn hb hstep hidle with ⟨e, -, rfl⟩ | ⟨hp, rfl⟩
    · rw [raiseError_done, takeTurn_done, hdone] at hd
      cases hd
    · exact ⟨hidle, h_eq_digestOf_of_serialize hturn hcturn hp⟩
  · rw [takeTurn_done, hdone] at hd
    cases hd
  · obtain ⟨r, rfl⟩ := hostStep_busy (s := { takeTurn s with inputs := rest }) hb hstep
    exact absurd (hdone.symm.trans hd) nofun
  · cases hd

/-- Settles O55: the step is SERIALIZE's, H is the hash of the padded message, and DONE excludes ERR. -/
theorem publishedDigestIsRight : Obligations.PublishedDigestIsRight := by
  intro s t hi hc hb h hd
  obtain ⟨hidle, hdigest⟩ := digest_of_step_done hi hc hb h hd
  have herr : t.err = false := by
    rw [Bool.eq_false_iff]
    exact fun he => (everyStepKeepsTheInvariant s t hi h).notBoth ⟨hd, he⟩
  refine ⟨hidle, herr, fun hm => ?_, fun hm => ?_⟩
  · rw [hdigest, paddedMessage_raw hm, sha0]
  · rw [hdigest, paddedMessage_prepadded hm]

end Sys2Proof.Proofs
end

section
/-! PROOFS. A computation that no other agent disturbs, from its START to its end (43_sequencer.md R82, R83). -/

namespace Sys2Proof.Proofs

open Sys2Proof.Machine Sys2Proof.Safety Sys2Proof.Laws

/-- The engine that is alone runs to the end of its computation, and what its steps keep holds before the last one
(70_reset_and_hazards.md R124). -/
theorem run_stepsLeft {P : State → Prop} (hP : ∀ s t : State, Inv s → P s → EngineStep s t → P t) {s : State}
    (hi : Inv s) (hs : P s) (hb : s.busy = true) (hin : s.inputs = []) (hq : s.schedule = []) :
    ∃ r t, Host.Core.run core (stepsLeft s) s = .next t ∧ Inv r ∧ P r ∧ r.busy = true ∧ EngineStep r t
      ∧ t.busy = false := by
  induction hn : stepsLeft s generalizing s with
  | zero =>
    obtain ⟨t, -, hstep⟩ := step_of_inv_of_engine hi (by simp only [nextAgent, hq, hb, if_true])
    rw [takeTurn_of_unscheduled hq] at hstep
    have hdown := stepsLeft_engineStep hi hb hstep
    omega
  | succ n ih =>
    obtain ⟨t, ht, hstep⟩ := step_of_inv_of_engine hi (by simp only [nextAgent, hq, hb, if_true])
    rw [takeTurn_of_unscheduled hq] at hstep
    have hdown := stepsLeft_engineStep hi hb hstep
    obtain ⟨hin', hq', -⟩ := engineStep_inputs hstep
    rw [run_succ n ht]
    cases hbt : t.busy with
    | true => exact ih (inv_engineStep hi hstep) (hP s t hi hs hstep) hbt (hin'.trans hin) (hq'.trans hq) (by omega)
    | false =>
      rw [stepsLeft_of_idle hbt] at hdown
      obtain rfl : n = 0 := by omega
      exact ⟨s, t, rfl, hi, hs, hb, hstep, hbt⟩

/-- Settles O57: the last step is a failing CHECK, which sets ERR, or SERIALIZE, which sets DONE. -/
theorem everyComputationEnds : Obligations.EveryComputationEnds := by
  intro s hi hb hin hq
  obtain ⟨r, t, hrun, hir, -, hbr, hstep, hbt⟩ :=
    run_stepsLeft (P := fun _ => True) (fun _ _ _ _ _ => trivial) hi trivial hb hin hq
  obtain ⟨hdone, herr, -⟩ := hir.busyClear hbr
  refine ⟨t, hrun, hbt, ?_⟩
  rcases engineStep_ends hir hbr hstep hbt with ⟨e, -, rfl⟩ | ⟨-, rfl⟩
  · simp [hdone]
  · simp [herr]

/-- A computation that has come from s to r: the message and the parameters are those of s, and what has been
computed is right. -/
def ComputesFrom (s r : State) : Prop := MessageKept s r ∧ r.params = s.params ∧ Computed r

theorem engineStep_params {s t : State} (h : EngineStep s t) : t.params = s.params := by
  cases h with
  | accum hp =>
    rcases afterAccum_cases (writeH (feedForward s.h s.work) s) with ⟨-, e⟩ | ⟨-, e⟩ | ⟨-, e⟩ <;> simp [e]
  | _ => simp

theorem MessageKept.trans {s t u : State} (h : MessageKept s t) (h' : MessageKept t u) : MessageKept s u := by
  obtain ⟨hmsg, hepoch, hlo, hhi, hmode, hL, hM⟩ := h
  obtain ⟨hmsg', hepoch', hlo', hhi', hmode', hL', hM'⟩ := h'
  exact ⟨hmsg'.trans hmsg, hepoch'.trans hepoch, hlo'.trans hlo, hhi'.trans hhi, hmode'.trans hmode, hL'.trans hL,
    hM'.trans hM⟩

theorem computesFrom_engineStep {s r t : State} (hi : Inv r) (h : ComputesFrom s r) (hstep : EngineStep r t) :
    ComputesFrom s t := by
  obtain ⟨hm, hp, hc⟩ := h
  exact ⟨hm.trans (engineStep_message hstep), (engineStep_params hstep).trans hp, computed_engineStep hi hc hstep⟩

/-- From a CHECK that passes, 3 + 162·NB engine steps publish the digest of the padded message (R83). -/
theorem run_of_checkLength_ok {s : State} {n : Nat} (hi : Inv s) (hp : s.seq = ⟨.check, 0⟩)
    (hok : checkLength s = .ok n) (hin : s.inputs = []) (hq : s.schedule = []) :
    ∃ t, Host.Core.run core (3 + 162 * n) s = .next t ∧ t.busy = false ∧ t.done = true ∧ t.err = false
      ∧ t.msg = s.msg ∧ t.digest = digestOf (paddedMessage s) := by
  have hb := busy_of_op (congrArg Seq.op hp) nofun
  have hs : ComputesFrom s s :=
    ⟨⟨rfl, rfl, rfl, rfl, rfl, rfl, rfl⟩, rfl, computed_of_not_pastInit (by rw [hp]; rfl)⟩
  obtain ⟨r, t, hrun, hir, ⟨hkept, hparams, hc⟩, hbr, hstep, hbt⟩ :=
    run_stepsLeft (P := ComputesFrom s) (fun _ _ => computesFrom_engineStep) hi hs hb hin hq
  obtain ⟨hmsg, hepoch, -, -, -, hL, hM⟩ := hkept
  rw [stepsLeft_of_check hp hok] at hrun
  rcases engineStep_ends hir hbr hstep hbt with ⟨e, he, -⟩ | ⟨hpr, rfl⟩
  · rw [checkLength_congr hL hM hparams, hok] at he
    cases he
  · have hdigest := h_eq_digestOf_of_serialize hir hc hpr
    rw [paddedMessage_congr hmsg hepoch hL hM] at hdigest
    exact ⟨_, hrun, rfl, rfl, (hir.busyClear hbr).2.1, hmsg, hdigest⟩

/-! ### START -/

/-- The state after the write of v to CTRL that starts a computation, when no other input waits (R85). -/
def afterStart (v : Word) (s : State) : State :=
  let m := Mode.ofBit (v.getLsbD 1)
  startComputation m { s with ctrlMode := m, inputs := [] }

theorem afterStart_modeLat (v : Word) (s : State) :
    (afterStart v s).modeLat = Mode.ofBit (v.getLsbD 1) := rfl

/-- The host's turn runs a START that waits while the engine is idle. -/
theorem step_start {s : State} {v : Word} (hb : s.busy = false) (hq : s.schedule = [])
    (hin : s.inputs = [.txn (txnWr32 0x000 v)]) (h0 : v.getLsbD 0 = true) :
    step s = .next (afterStart v s) := by
  have ha : nextAgent s = .host := by simp [nextAgent, hq, hb, hin]
  have hd : decodeHost (txnWr32 0x000 v) = some (.wrCtrl v) := decode_encode_host (i := .wrCtrl v) rfl rfl
  have hidle : State.busy { s with inputs := [] } = false := hb
  rw [step_of_host ha, takeTurn_of_unscheduled hq, hostTurn_txn hin, runTxn_of_decode hd, exec, execWrCtrl,
    unlessBusy_idle _ _ hidle, writeCtrl, if_pos h0]
  rfl

/-- A START whose length CHECK accepts, and the engine steps after it. -/
theorem run_start {s : State} {v : Word} {n : Nat} (hi : Inv s) (hb : s.busy = false) (hq : s.schedule = [])
    (hin : s.inputs = [.txn (txnWr32 0x000 v)]) (h0 : v.getLsbD 0 = true)
    (hok : checkLength (afterStart v s) = .ok n) :
    ∃ t, Host.Core.run core (1 + (3 + 162 * n)) s = .next t ∧ t.busy = false ∧ t.done = true ∧ t.err = false
      ∧ t.msg = s.msg ∧ t.digest = digestOf (paddedMessage (afterStart v s)) := by
  have hstarted : Inv (afterStart v s) := inv_start (inv_congr s.schedule [] s.returned hi) _
  rw [Nat.add_comm, run_succ _ (step_start hb hq hin h0)]
  exact run_of_checkLength_ok hstarted rfl hok rfl hq

/-- Settles O58: CHECK accepts the length, and the padded message is pad of the message that START latched. -/
theorem rawComputationHashesTheMessage : Obligations.RawComputationHashesTheMessage := by
  intro s v hi hb hq hin h0 h1 hlen hcap
  have hm : (afterStart v s).modeLat = .raw := by rw [afterStart_modeLat, h1]; rfl
  have hok := (checkLength_ok (afterStart v s) _).2 ⟨hcap, .inl ⟨hm, hlen, rfl⟩⟩
  have hrun := run_start hi hb hq hin h0 hok
  rw [paddedMessage_raw hm] at hrun
  exact hrun

/-- Settles O59: CHECK accepts the length, and the padded message is the buffer itself. -/
theorem prepaddedComputationHashesTheBuffer : Obligations.PrepaddedComputationHashesTheBuffer := by
  intro s v hi hb hq hin h0 h1 h64 hpos hcap
  have hm : (afterStart v s).modeLat = .prepadded := by rw [afterStart_modeLat, h1]; rfl
  have hok := (checkLength_ok (afterStart v s) _).2 ⟨hcap, .inr ⟨hm, h64, hpos, rfl⟩⟩
  have hrun := run_start hi hb hq hin h0 hok
  rw [paddedMessage_prepadded hm] at hrun
  exact hrun

end Sys2Proof.Proofs
end

section
/-! PROOFS. The host interface: the registers of 44_host_interface.md R84 to R93. -/

namespace Sys2Proof.Proofs

open Sys2Proof.Machine Sys2Proof.Safety Sys2Proof.Laws

/-! ### The words that CTRL and STATUS read as -/

theorem ctrlWord_eq (s : State) : ctrlWord s = match s.ctrlMode with | .raw => 0 | .prepadded => 2 := by
  rw [ctrlWord]
  cases s.ctrlMode <;> rfl

/-- Settles O29: each read returns one register's word, that of CTRL by the mode. -/
theorem registerReadsReturnTheirValue : Obligations.RegisterReadsReturnTheirValue := by
  intro s
  have hctrl := congrArg (fun v => (.next (returnValue (.word v) s) : Result)) (ctrlWord_eq s)
  exact ⟨hctrl, rfl, rfl, rfl, rfl, rfl, rfl, rfl⟩

/-- The fields of STATUS side by side, from the top (10_state.md R24). -/
def statusFields (code : BitVec 4) (err done busy : Bool) : Word :=
  (0 : BitVec 24) ++ code ++ (0 : BitVec 1) ++ BitVec.ofBool err ++ BitVec.ofBool done ++ BitVec.ofBool busy

/-- The shifted fields of R86 do not overlap. -/
theorem statusWord_eq_fields (s : State) : statusWord s = statusFields s.errCode s.err s.done s.busy := by
  apply BitVec.eq_of_getLsbD_eq
  intro i hi
  simp only [statusWord, statusFields, bitAt, BitVec.getLsbD_or, BitVec.getLsbD_shiftLeft, BitVec.getLsbD_setWidth,
    BitVec.getLsbD_append, BitVec.getLsbD_ofBool]
  grind

section
variable (code : BitVec 4) (err done busy : Bool)

theorem statusFields_low : (statusFields code err done busy).getLsbD 0 = busy
    ∧ (statusFields code err done busy).getLsbD 1 = done ∧ (statusFields code err done busy).getLsbD 2 = err
    ∧ (statusFields code err done busy).getLsbD 3 = false := by
  simp only [statusFields, BitVec.getLsbD_append]
  simp

theorem statusFields_code : (statusFields code err done busy).extractLsb' 4 4 = code :=
  (extract_append_hi (k := 3) _ _).trans ((extract_append_hi (k := 2) _ _).trans
    ((extract_append_hi (k := 1) _ _).trans ((extract_append_hi (k := 0) _ _).trans
    ((extract_append_lo _ _ (by decide)).trans (extract_all _)))))

theorem statusFields_top : (statusFields code err done busy).extractLsb' 8 24 = 0 :=
  (extract_append_hi (k := 7) _ _).trans ((extract_append_hi (k := 6) _ _).trans
    ((extract_append_hi (k := 5) _ _).trans ((extract_append_hi (k := 4) _ _).trans
    ((extract_append_hi (k := 0) _ _).trans (extract_all _)))))

end

/-- Settles O30: the read returns the STATUS word, and each part of it is a field. -/
theorem statusReadReturnsTheFlags : Obligations.StatusReadReturnsTheFlags := by
  intro s
  obtain ⟨hbusy, hdone, herr, hzero⟩ := statusFields_low s.errCode s.err s.done s.busy
  refine ⟨statusWord s, rfl, ?_⟩
  rw [statusWord_eq_fields]
  exact ⟨hbusy, hdone, herr, hzero, statusFields_code .., statusFields_top ..⟩

/-- With ERR, ERRCODE holds one of the three codes of 60_exceptions.md R104. -/
theorem errCode_of_inv {s : State} (hi : Inv s) (he : s.err = true) :
    s.errCode = 1 ∨ s.errCode = 2 ∨ s.errCode = 3 := by
  have hne : s.errCode ≠ 0 := fun h => by simp [hi.errIff.2 h] at he
  have hle := hi.errCodeRange
  bv_omega

/-- Settles O31: BUSY excludes DONE and ERR, these exclude each other, and ERRCODE is 0 without ERR. -/
theorem statusHasSixValues : Obligations.StatusHasSixValues := by
  intro s hi
  rw [statusWord_eq_fields]
  cases hb : s.busy with
  | true =>
    obtain ⟨hdone, herr, hcode⟩ := hi.busyClear hb
    rw [hdone, herr, hcode]
    decide
  | false =>
    cases herr : s.err with
    | true =>
      have hdone : s.done = false := Bool.eq_false_iff.2 fun hd => hi.notBoth ⟨hd, herr⟩
      rw [hdone]
      rcases errCode_of_inv hi herr with hcode | hcode | hcode <;> rw [hcode] <;> decide
    | false =>
      rw [hi.errIff.1 herr]
      cases s.done <;> decide

/-! ### The writes -/

/-- Settles O32: while idle the write sets MODE, and with bit 0 it is START. -/
theorem ctrlWriteSetsModeAndStarts : Obligations.CtrlWriteSetsModeAndStarts := by
  intro s v
  have takesEffect (hidle : s.seq.op = .idle) : exec (.wrCtrl v) s = .next (writeCtrl v s) :=
    congrArg _ (unlessBusy_idle _ _ ((idle_iff s).2 hidle))
  refine ⟨fun hbusy => ?busy, fun hidle h0 => ?mode, fun hidle h0 => ?start⟩
  case busy =>
    obtain ⟨hctrl, -⟩ := writesWhileBusyAreIgnored s v 0 0 ((busy_iff s).2 hbusy)
    exact hctrl
  case mode =>
    rw [takesEffect hidle, writeCtrl, if_neg (Bool.eq_false_iff.1 h0)]
    rfl
  case start =>
    rw [takesEffect hidle, writeCtrl, if_pos h0]
    rfl

/-- Settles O33: both are one register's write under the guard of R27. -/
theorem lengthWritesWhileIdle : Obligations.LengthWritesWhileIdle := by
  intro s v
  refine ⟨fun hidle => ?idle, fun hbusy => ?busy⟩
  case idle =>
    have hb := (idle_iff s).2 hidle
    exact ⟨congrArg _ (unlessBusy_idle _ _ hb), congrArg _ (unlessBusy_idle _ _ hb)⟩
  case busy =>
    obtain ⟨-, hlo, hhi, -⟩ := writesWhileBusyAreIgnored s v 0 0 ((busy_iff s).2 hbusy)
    exact ⟨hlo, hhi⟩

/-- Settles O34: each is an ignored write; those of reserved space have legal operands. -/
theorem readOnlyAndReservedWritesChangeNothing : Obligations.ReadOnlyAndReservedWritesChangeNothing :=
  fun _ _ _ _ => ⟨rfl, rfl, rfl, rfl, rfl, rfl, fun h => ifSupported_of _ _ (decide_eq_true h),
    fun h4 h => ifSupported_of _ _ (decide_eq_true ⟨h4, h⟩)⟩

/-- Settles O35: each returns 0 of its width, the operands being legal. -/
theorem reservedReadsReturnZero : Obligations.ReservedReadsReturnZero :=
  fun _ _ => ⟨fun h => ifSupported_of _ _ (decide_eq_true h),
    fun h4 h => ifSupported_of _ _ (decide_eq_true ⟨h4, h⟩)⟩

end Sys2Proof.Proofs
end

section
/-! PROOFS. The host interface: the message window (44_host_interface.md R94 to R97), and which transactions
complete (R102). -/

namespace Sys2Proof.Proofs

open Sys2Proof.Machine Sys2Proof.Laws

/-! ### Reads -/

theorem exec_rdMsg8_tail {s : State} {i : BitVec 24} (hi : s.params.msgBufBytes ≤ i.toNat) :
    exec (.rdMsg8 i) s = .next (returnValue (.byte 0) s) := by
  simp only [exec, execRdMsg8, if_neg (Nat.not_lt.2 hi)]

theorem exec_rdMsg32_tail {s : State} {i : BitVec 24} (h4 : i.toNat % 4 = 0)
    (hi : s.params.msgBufBytes ≤ i.toNat) :
    exec (.rdMsg32 i) s = .next (returnValue (.word 0) s) := by
  have hwf : (Instr.rdMsg32 i).wf = true := decide_eq_true h4
  simp only [exec, execRdMsg32, ifSupported_of _ _ hwf, if_neg (Nat.not_lt.2 hi)]

/-- Settles O36: each read, inside the buffer and in the tail. -/
theorem messageReadsReturnTheBytes : Obligations.MessageReadsReturnTheBytes :=
  fun _ _ => ⟨exec_rdMsg8_inside, exec_rdMsg8_tail, exec_rdMsg32_inside, exec_rdMsg32_tail⟩

/-! ### Writes -/

/-- A write to an index of the message window is ignored while BUSY and in the tail. -/
theorem unlessBusy_outside {f : State → State} {s : State} {i : Nat}
    (h : s.seq.op ≠ .idle ∨ s.params.msgBufBytes ≤ i) :
    unlessBusy (fun s => if i < s.params.msgBufBytes then f s else s) s = s := by
  cases hb : s.busy with
  | true => exact unlessBusy_busy _ _ hb
  | false =>
    have htail := h.resolve_left (not_not.2 ((idle_iff s).1 hb))
    exact (unlessBusy_idle _ _ hb).trans (if_neg (Nat.not_lt.2 htail))

theorem exec_wrMsg8_ignored {s : State} {i : BitVec 24} (b : Byte)
    (h : s.seq.op ≠ .idle ∨ s.params.msgBufBytes ≤ i.toNat) : exec (.wrMsg8 i b) s = .next s :=
  congrArg _ (unlessBusy_outside h)

theorem exec_wrMsg32_ignored {s : State} {i : BitVec 24} (v : Word) (h4 : i.toNat % 4 = 0)
    (h : s.seq.op ≠ .idle ∨ s.params.msgBufBytes ≤ i.toNat) : exec (.wrMsg32 i v) s = .next s := by
  have hwf : (Instr.wrMsg32 i v).wf = true := decide_eq_true h4
  exact (ifSupported_of _ _ hwf).trans (congrArg _ (unlessBusy_outside h))

/-- Settles O37: inside the buffer the write is one byte's, and otherwise it is ignored. -/
theorem byteWriteStoresOneByte : Obligations.ByteWriteStoresOneByte := by
  intro s i b hmem
  refine ⟨fun hidle hi => ?stores, exec_wrMsg8_ignored b⟩
  case stores =>
    exact ⟨Memory.set s.msg i.toNat b, exec_wrMsg8_inside ((idle_iff s).2 hidle) hi b,
      fun j => msgByte_memWrite s _ b j hmem⟩

/-- Byte j of a word written stands at the j-th index from the first. -/
theorem msgByte_writeBE32_at {s : State} (hmem : Memory.wf s.msg = true) (i : Nat) (v : Word) (j : Nat)
    (hj : j < 4) : msgByte (writeBE32 i v s) (i + j) = byteOf v j := by
  rw [msgByte_writeBE32 _ _ _ _ hmem, if_pos ⟨by omega, by omega⟩, Nat.add_sub_cancel_left]

/-- Settles O38: inside the buffer the write is the big-endian word's, and otherwise it is ignored. -/
theorem wordWriteStoresFourBytes : Obligations.WordWriteStoresFourBytes := by
  intro s i v hmem h4
  refine ⟨fun hidle hi => ?stores, exec_wrMsg32_ignored v h4⟩
  case stores =>
    have stored := msgByte_writeBE32_at hmem i.toNat v
    refine ⟨(writeBE32 i.toNat v s).msg, exec_wrMsg32_inside ((idle_iff s).2 hidle) h4 hi v, ?_⟩
    rw [← writeBE32_eq]
    exact ⟨stored 0 (by decide), stored 1 (by decide), stored 2 (by decide), stored 3 (by decide),
      fun j hj => msgByte_writeBE32_ne s _ v j hj⟩

/-! ### Which transactions complete -/

/-- A transaction with legal operands completes in every state. -/
theorem exec_txn_completes {i : Instr} (hu : isUop i = false) (h : i.wf = true) (s : State) :
    ∃ t, exec i s = .next t := by
  cases i <;> cases hu
  case rdMsg8 j =>
    rcases Nat.lt_or_ge j.toNat s.params.msgBufBytes with hj | hj
    · exact ⟨_, exec_rdMsg8_inside hj⟩
    · exact ⟨_, exec_rdMsg8_tail hj⟩
  case rdMsg32 j =>
    rcases Nat.lt_or_ge j.toNat s.params.msgBufBytes with hj | hj
    · exact ⟨_, exec_rdMsg32_inside (of_decide_eq_true h) hj⟩
    · exact ⟨_, exec_rdMsg32_tail (of_decide_eq_true h) hj⟩
  case wrMsg32 | rdRsvd8 | wrRsvd8 | rdRsvd32 | wrRsvd32 => exact ⟨_, ifSupported_of _ _ h⟩
  all_goals exact ⟨_, rfl⟩

/-- Settles O5: the grounds of R102 are those on which the decode procedure has no answer; what it answers has
legal operands, and so completes. -/
theorem unsupportedDescriptorsAreRefused : Obligations.UnsupportedDescriptorsAreRefused := by
  intro x s sz off bad
  have hbad : decodeHost x = none ↔ bad := (decodeHost_eq_none_iff x).trans (by rw [or_assoc, or_assoc]; rfl)
  refine ⟨fun h => runTxn_unsupported (hbad.2 h) s, fun h => ?completes⟩
  case completes =>
    obtain ⟨i, hd⟩ := Option.ne_none_iff_exists'.1 (mt hbad.1 h)
    obtain ⟨hwf, -⟩ := hasDescriptor_of_decodeHost (d := x.desc) (v := x.data) hd
    obtain ⟨t, ht⟩ := exec_txn_completes (decodeHost_not_uop hd) hwf s
    exact ⟨i, t, hd, ht, (runTxn_of_decode hd s).trans ht⟩

end Sys2Proof.Proofs
end

section
/-! PROOFS. A START whose length CHECK rejects (43_sequencer.md R78, 70_reset_and_hazards.md R123). -/

namespace Sys2Proof.Proofs

open Sys2Proof.Machine Sys2Proof.Laws

/-- The engine's step after a START whose length CHECK rejects: the latches that CHECK reads have just been
written, so all it does is raise the error (60_exceptions.md R105). -/
theorem step_afterStart_rejected {s : State} {v : Word} {e : ErrorKind} (hq : s.schedule = [])
    (he : checkLength (afterStart v s) = .error e) :
    step (afterStart v s) = .next (raiseError e (afterStart v s)) := by
  have hq' : (afterStart v s).schedule = [] := hq
  have ha : nextAgent (afterStart v s) = .engine := by
    rw [nextAgent, hq']
    rfl
  have hp : (afterStart v s).seq = ⟨.check, 0⟩ := rfl
  have hd : decodeUop (afterStart v s).seq.word = some .check := by
    rw [hp]
    rfl
  rw [step_of_engine ha, takeTurn_of_unscheduled hq', runUop_of_decode hd, noteReads_of _ _ rfl,
    exec_check_of_error he]

/-- A START that CHECK rejects, and the one engine step after it. -/
theorem run_start_rejected {s : State} {v : Word} {e : ErrorKind} (hb : s.busy = false) (hq : s.schedule = [])
    (hin : s.inputs = [.txn (txnWr32 0x000 v)]) (h0 : v.getLsbD 0 = true)
    (he : checkLength (afterStart v s) = .error e) :
    Host.Core.run core 2 s = .next (raiseError e (afterStart v s)) := by
  rw [run_succ 1 (step_start hb hq hin h0), run_succ 0 (step_afterStart_rejected hq he)]
  rfl

/-- Settles O60: on each ground CHECK's tests find the error of highest priority (R106), and raising it after the
START leaves the state that is written out. -/
theorem rejectedStartReportsItsError : Obligations.RejectedStartReportsItsError := by
  intro s v hb hq hin h0 l cap m c hground
  have rejected {e : ErrorKind} (he : checkLength (afterStart v s) = .error e) (hc : c = errorCode e) := by
    have hrun := run_start_rejected hb hq hin h0 he
    rw [raiseError, setError, ← hc] at hrun
    exact hrun
  rcases hground with ⟨hm, hl, hc⟩ | ⟨hm, hl, hcap, hc⟩ | ⟨hm, hl, hc⟩ | ⟨hm, h64, hpos, hcap, hc⟩
  · exact rejected (checkLength_overflow _ hm hl) hc
  · exact rejected (checkLength_capacity_raw _ hm hl hcap) hc
  · exact rejected (checkLength_precondition _ hm hl) hc
  · exact rejected (checkLength_capacity_prepadded _ hm h64 hpos hcap) hc

end Sys2Proof.Proofs
end

section
/-! PROOFS. What stops a run and what raises an error (60_exceptions.md R104, R105, R108, R109). -/

namespace Sys2Proof.Proofs

open Sys2Proof.Machine Sys2Proof.Safety Sys2Proof.Laws

/-! ### What stops a run -/

/-- A transaction that decodes has legal operands, and so completes in every state (60_exceptions.md R109). -/
theorem runTxn_completes {x : Txn} {i : Instr} (hd : decodeHost x = some i) (s : State) :
    ∃ t, runTxn x s = .next t := by
  obtain ⟨hwf, -⟩ := hasDescriptor_of_decodeHost (d := x.desc) (v := x.data) hd
  obtain ⟨t, ht⟩ := exec_txn_completes (decodeHost_not_uop hd) hwf s
  exact ⟨t, (runTxn_of_decode hd s).trans ht⟩

theorem hostTurn_reset {s : State} {rest : List Input} (h : s.inputs = .reset :: rest) :
    hostTurn s = .next (assertReset { s with inputs := rest }) := by simp only [hostTurn, h]

/-- In every state the outside world's turn completes, or its oldest input is an UNSUPPORTED transaction
(44_host_interface.md R102). -/
theorem hostTurn_completes_or_unsupported (s : State) :
    (∃ t, hostTurn s = .next t) ∨
      ∃ x rest, s.inputs = .txn x :: rest ∧ decodeHost x = none ∧
        hostTurn s = .refused (.unsupported x.desc) := by
  rcases hin : s.inputs with _ | ⟨x | -, rest⟩
  case nil => exact .inl ⟨_, hostTurn_nothing hin⟩
  case cons.txn =>
    rw [hostTurn_txn hin]
    cases hd : decodeHost x with
    | some i => exact .inl (runTxn_completes hd _)
    | none => exact .inr ⟨x, rest, rfl, hd, runTxn_unsupported hd _⟩
  case cons.reset => exact .inl ⟨_, hostTurn_reset hin⟩

/-- Settles O53: the engine's turn completes by the invariant, the host's in every state unless its transaction
is UNSUPPORTED. -/
theorem onlyUnsupportedTransactionsStopARun : Obligations.OnlyUnsupportedTransactionsStopARun := by
  intro s hi
  cases ha : nextAgent s with
  | engine =>
    obtain ⟨t, ht, -⟩ := step_of_inv_of_engine hi ha
    exact .inl ⟨t, ht⟩
  | host =>
    rw [step_of_host ha]
    exact (hostTurn_completes_or_unsupported (takeTurn s)).imp_right (⟨rfl, ·⟩)

/-! ### What raises an error -/

/-- The codes of R104. -/
theorem errorCode_cases (e : ErrorKind) : errorCode e = 1 ∨ errorCode e = 2 ∨ errorCode e = 3 := by
  cases e <;> decide

theorem afterAccum_err (s : State) : (afterAccum s).err = s.err := by
  rcases afterAccum_cases s with ⟨-, e⟩ | ⟨-, e⟩ | ⟨-, e⟩ <;> simp [e]

/-- Of the uops only a CHECK that rejects the length touches ERR (R105). -/
theorem engineStep_err {s t : State} (h : EngineStep s t) :
    t.err = s.err ∨ ∃ e, s.seq = ⟨.check, 0⟩ ∧ t = raiseError e s := by
  cases h with
  | checkFail e hp => exact .inr ⟨e, hp, rfl⟩
  | accum => exact .inl (afterAccum_err _)
  | _ => exact .inl rfl

/-- No transaction sets ERR: a START clears it (43_sequencer.md R79), and the others leave it as it is. -/
theorem hostStep_err {i : Instr} {s t : State} (h : HostStep i s t) : t.err = s.err ∨ t.err = false := by
  cases h with
  | start => exact .inr rfl
  | msg32 => exact .inl (writeBE32_err ..)
  | _ => exact .inl rfl

/-- Settles O44: of the kinds of step only the engine's can set ERR, and of its uops only CHECK. -/
theorem onlyCheckRaisesErrors : Obligations.OnlyCheckRaisesErrors := by
  intro s t h hs ht
  rcases step_next h with ⟨ha, hstep⟩ | ⟨-, -, rfl⟩ | ⟨-, x, i, rest, -, -, hstep⟩ | ⟨-, rest, -, rfl⟩
  case inl =>
    rcases engineStep_err hstep with hkept | ⟨e, hp, rfl⟩
    · rw [noteReads_err, takeTurn_err, hs, ht] at hkept
      cases hkept
    · exact ⟨ha, hp, rfl, errorCode_cases e⟩
  case inr.inl =>
    rw [takeTurn_err, hs] at ht
    cases ht
  case inr.inr.inl =>
    have hclear : t.err = false := (hostStep_err hstep).elim (·.trans hs) id
    rw [hclear] at ht
    cases ht
  case inr.inr.inr => cases ht

end Sys2Proof.Proofs
end

section
/-! PROOFS. The reset input as a step, and the count of the engine steps that are left under every interleaving
(70_reset_and_hazards.md R118, R123). -/

namespace Sys2Proof.Proofs

open Sys2Proof.Machine Sys2Proof.Safety Sys2Proof.Laws

/-! ### The reset input -/

theorem step_reset {s : State} {rest : List Input} (ha : nextAgent s = .host) (hin : s.inputs = .reset :: rest) :
    step s = .next (assertReset { takeTurn s with inputs := rest }) := by
  rw [step_of_host ha]
  exact hostTurn_reset hin

/-- The reset input empties MSG and begins an epoch: every byte reads as a new draw (10_state.md R32). -/
theorem msgByte_assertReset (s : State) (i : Nat) : msgByte (assertReset s) i = Config.msgDraw (s.epoch + 1) i := rfl

/-- Settles O2: the step is `assertReset`, which starts from the reset state and keeps what is outside the block. -/
theorem resetInputIsOneStep : Obligations.ResetInputIsOneStep := by
  intro s rest ha hin
  exact ⟨_, step_reset ha hin, rfl, rfl, rfl, rfl, rfl, rfl, rfl, rfl, rfl, rfl, msgByte_assertReset _,
    rfl, rfl, rfl⟩

/-! ### The count of the steps that are left -/

/-- The count does not speak of the schedule, the inputs or the values returned. -/
theorem stepsLeft_congr (s : State) (q : List Agent) (l : List Input) (r : List BusValue) :
    stepsLeft { s with schedule := q, inputs := l, returned := r } = stepsLeft s := rfl

theorem stepsLeft_step_of_engine {s t : State} (hi : Inv s) (hb : s.busy = true) (h : step s = .next t)
    (ha : nextAgent s = .engine) : stepsLeft t + 1 = stepsLeft s := by
  have hturn : Inv (takeTurn s) := inv_congr s.schedule.tail s.inputs s.returned hi
  obtain ⟨t', ht', hstep⟩ := step_of_inv_of_engine hi ha
  obtain rfl : t' = t := Host.Outcome.next.inj (ht'.symm.trans h)
  rw [stepsLeft_engineStep hturn hb hstep]
  exact stepsLeft_congr s s.schedule.tail s.inputs s.returned

/-- While BUSY the host's turn passes or its transaction returns a value; only the reset input does more. -/
theorem stepsLeft_step_of_host {s t : State} (hb : s.busy = true) (h : step s = .next t)
    (ha : nextAgent s = .host) (hr : s.inputs.head? ≠ some .reset) : stepsLeft t = stepsLeft s := by
  rcases step_next h with ⟨he, -⟩ | ⟨-, -, rfl⟩ | ⟨-, x, i, rest, -, -, hstep⟩ | ⟨-, rest, hin, -⟩
  · exact absurd (ha.symm.trans he) nofun
  · exact stepsLeft_congr s s.schedule.tail s.inputs s.returned
  · obtain ⟨r, rfl⟩ := hostStep_busy (s := { takeTurn s with inputs := rest }) hb hstep
    exact stepsLeft_congr s s.schedule.tail rest r
  · exact absurd (congrArg List.head? hin) hr

/-- Settles O56: an engine step is a row of the sequencer's table, and the host cannot move a busy engine. -/
theorem engineStepsCountDown : Obligations.EngineStepsCountDown :=
  fun _ _ hi hb h => ⟨stepsLeft_step_of_engine hi hb h, stepsLeft_step_of_host hb h⟩

end Sys2Proof.Proofs
end
